-- ==== Sys2Proof/Word.lean ====
section
/-! DEFINITION. The word types of the OQ-2040: registers are 64 bits wide, memory is addressed by bytes
(00_scope.md "Conventions"; R16). -/

namespace Sys2Proof

/-- A register value: registers are 64 bits wide (R41). -/
abbrev Word := BitVec 64

/-- A byte of memory. -/
abbrev Byte := BitVec 8

/-- An FP32 encoding (R62). -/
abbrev F32 := BitVec 32

/-- An A40 encoding (R61). -/
abbrev A40 := BitVec 40

end Sys2Proof
end

