-- ==== Sys2Proof/Syntax.lean ====
section
/-! DEFINITION. The commands and events of opcode_table.json: one constructor of `Instr` per row, with the row's operands.
What the State cannot know (a reading, a duration, a message that arrives, a random draw) is an operand: the environment's
input at that step. -/

namespace Sys2Proof

/-- How a command reaches the sequencer: flow, seq, basin field and package flag (R389, R390; Table 11.4). -/
structure Hdr where
  flow : Nat
  seq : Nat
  basin : Nat
  pkg : Bool
  deriving DecidableEq, Repr

/-- A UDP datagram at the quay port, with what its frame, IP and UDP headers carry (R375 to R379). -/
structure Dgram where
  frameLen : Nat          -- destination address through FCS
  fcsOk : Bool
  fecFixed : Nat          -- codewords of the lanes corrected for it, and not correctable
  fecLost : Nat
  vlan : Option Nat       -- the tag's VLAN identifier, none when untagged
  ipv6 : Bool
  headersOk : Bool        -- checksums right, no fragment, option or extension header
  dstMac : Nat
  dstAddr : Nat           -- 128 bits, IPv4 in mapped form
  dstPort : Nat
  srcAddr : Nat           -- 128 bits, IPv4 in mapped form
  srcMac : Nat
  srcPort : Nat
  ce : Bool               -- the CE mark
  bytes : List Byte       -- Quayline header and payload
  deriving DecidableEq, Repr

/-- Readings of the sensors and supplies (R465, R467). -/
structure Readings where
  power : Nat             -- W
  vin : Nat               -- 10 mV
  iin : Nat               -- 0.1 A
  vio : Nat               -- 10 mV
  logic : List Nat        -- hottest junction of dies 0 to 39
  dram : List Nat         -- hottest DRAM die of stacks 0 to 19
  deriving DecidableEq, Repr

/-- How a message's flits come in on a port (R312, R313): the port sequence number of its first flit and its virtual channel; where a
flit's CRC-64 is wrong, how many of its flits came before that one. -/
structure FlitIn where
  pseq : Nat
  vc : Nat
  bad : Option Nat
  ack : Nat                 -- acknowledgement and credits of the flits' headers
  cvc : Nat
  ccount : Nat
  deriving DecidableEq, Repr

/-- A port a message comes in on, and how. -/
structure PortIn where
  port : Nat
  flit : FlitIn
  deriving DecidableEq, Repr

/-- A message of the fabric as it is received whole (R310, R316): destination of the flit header, source of the message
header, its body and, for a cargo, the 64-byte cargo header and the payload. -/
structure LinkMsg where
  port : Nat              -- ingress port; 0x3F for a local contribution
  kind : Nat              -- msg of Table 09.5
  dx : Nat
  dy : Nat
  dz : Nat
  dbasin : Nat
  dharb : Nat
  sx : Nat
  sy : Nat
  sz : Nat
  sbasin : Nat
  sharb : Nat
  body : Nat              -- Table 09.6, bits [127:64] of the message header
  cargo : List Byte       -- 64-byte cargo header (Table 09.9), empty for one-flit messages
  payload : List Byte
  arr : FlitIn := { pseq := 0, vc := 0, bad := none, ack := 0, cvc := 0, ccount := 0 }
  causes : List (Nat × Nat) := []  -- of a result: element and cause of its non-finite elements (R330; log entry 63, DESIGN CHOICE)
  deriving DecidableEq, Repr

/-- A die's fuse record as it loads (R417, R418): whether it reports with a right CRC-32C, its array map check and its
identity. -/
structure DieFuse where
  recordOk : Bool
  arrayOk : Bool
  lot : List Byte         -- seven characters
  wafer : Nat
  x : Nat
  y : Nat
  stepping : Nat
  crc : Nat
  disabled0 : Nat         -- disabled physical array of core 0 (setts)
  disabled1 : Nat
  deriving DecidableEq, Repr

/-- One key slot of the package record (R419). -/
structure KeySlot where
  ed : List Byte          -- SHA-384 of the Ed25519 public key
  ml : List Byte          -- SHA-384 of the ML-DSA-65 public key
  programmed : Bool
  revoked : Bool
  deriving DecidableEq, Repr

/-- The fuses of the package: the die records and the package record (R417 to R419, R434). -/
structure Fuses where
  dies : List DieFuse     -- 40
  serial : List Byte      -- 16 characters
  provisioned : Bool
  deployed : Bool
  retired : Bool
  seedKilled : Bool
  entries : Nat
  exits : Nat
  replacements : Nat
  svnMin : Nat
  slots : List KeySlot    -- 4
  seed : List Byte        -- 32 bytes, read by the key engine alone
  seedOk : Bool           -- the check word
  mac : Nat
  mismatches : Nat
  deriving DecidableEq, Repr

/-- What the TRNG gives at stage FUSE (R430). -/
structure BootDraws where
  ok : Bool               -- health tests
  bootId : Nat
  reportSeed : List Byte  -- secret key of the report key pair
  deriving DecidableEq, Repr

/-- Bits gone wrong at rest in a store since the latest window of a sett (R192, R194, R208, R218, R242): bits of one symbol of a line
(0 to 127 data, 128 to 143 check bytes), or how many of a word under SECDED. `core` is 0 or 1, the core of the sett. -/
inductive Upset where
  | line (line symbol mask : Nat)         -- a line of the sett's stack
  | pinned (die off symbol mask : Nat)    -- the line at a pinned offset of a harbour die
  | way (die line symbol mask : Nat)      -- a line in a harbour die's cache ways, by device address
  | word (core off bits : Nat)            -- a scratch word, by its offset in the core's scratch
  | vstore (core word bits : Nat)         -- a word of the vector store
  | vreg (core word bits : Nat)           -- a word of the vector registers: 256 words of two lanes to a register
  | bundle (core index word bits : Nat)   -- a word of an entry of the bundle queue, by its bundle index
  deriving DecidableEq, Repr

/-- An access on the I²C bus (R441): the seven-bit address it bears, and the offset written or how many bytes are read. -/
structure I2cAccess where
  addr : Nat
  n : Nat
  deriving DecidableEq, Repr

/-- What the package finds out for itself while it carries out a command that a packet brings: the nonce it draws (R436), the
sideband latency it measures (R343), its readings (R465). -/
structure CmdEnv where
  nonce : List Byte
  latency : Nat
  readings : Readings
  deriving DecidableEq, Repr

/-- One constructor per row of opcode_table.json. -/
inductive Instr where
  | nop (h : Hdr)
  | heartbeat (h : Hdr)
  | regRead (h : Hdr) (addr : Nat)
  | regWrite (h : Hdr) (addr : Nat) (value : Word)
  | regReadBlock (h : Hdr) (addr count : Nat)
  | pltBasinCutWrite (h : Hdr) (value : Word)
  | hbcWaysWrite (h : Hdr) (die : Nat) (value : Word)
  | cacheRangeWrite (h : Hdr) (sett range : Nat) (value : Word)
  | arm (h : Hdr) (value : Word)
  | stepLoad (h : Hdr) (basin : Nat) (value : Word)
  | dvorRingWrite (h : Hdr) (basin : Nat) (ring : Bool) (value : Word)
  | chkStateLoad (h : Hdr) (core : Nat) (value : Word)
  | moorDeclare (h : Hdr) (basin region : Nat) (len : Bool) (value : Word)
  | lnkTopoWrite (h : Hdr) (die : Nat) (value : Word)
  | push (h : Hdr) (die : Nat) (value : Word)
  | portModeChange (h : Hdr) (value : Word)
  | memWrite (h : Hdr) (addr : Nat) (data : List Byte)
  | memRead (h : Hdr) (addr len : Nat)
  | memFill (h : Hdr) (addr len : Nat) (pattern : Word)
  | memDigest (h : Hdr) (addr len poly : Nat)
  | progLoad (h : Hdr) (slot src len : Nat)
  | progBind (h : Hdr) (slot mode : Nat)
  | launchAtTide (h : Hdr) (t : Nat)
  | launch (basin : Nat)
  | stepCommit (h : Hdr)
  | gateEvaluation (basin : Nat)
  | stepDiscard (h : Hdr)
  | preempt (h : Hdr)
  | basinPreempted (basin : Nat)
  | fabricConfig (h : Hdr) (topo : Word) (mask : Nat) (groups : List Nat)
  | slotTableLoad (h : Hdr) (mask : Nat) (entries : List Byte)
  | barrierConfig (h : Hdr) (id group lbar latency : Nat)
  | rankAssign (h : Hdr) (rank ebbGroup : Nat) (entries : List Nat)
  | intStatus (h : Hdr)
  | drain (h : Hdr) (mode : Nat) (replace : Nat)
  | drainEnter
  | adjudicationLog (h : Hdr)
  | replicaDigest (h : Hdr) (mode region base len : Nat)
  | attest (h : Hdr) (nonce : List Byte)
  | identityRead (h : Hdr)
  | lifecycleSet (h : Hdr) (token : List Byte) (newNonce : List Byte)
  | wipe (h : Hdr) (confirm : Nat)
  | wipeComplete (us : Nat)
  | wipeIncomplete (die : Nat) (us : Nat)
  | powerPoint (h : Hdr) (op cap : Nat)
  | thermalRead (h : Hdr) (r : Readings)
  | bundle (core : Nat)
  | fetchLate (core edges : Nat)
  | barrierRelease (basin : Nat)
  | barrierTimeout (core : Nat)
  | fabricLate (core edges : Nat)
  | collTimeout (basin index : Nat)
  | tideWaitRelease (core : Nat)
  | scheduleComplete (basin : Nat)
  | adjudication (core : Nat)
  | streamLate (core engine obligation row edges : Nat)
  | chkLate (core edges : Nat)
  | ebbPass (core : Nat)
  | compiledWindow (sett temp : Nat) (upsets : List Upset) (marginLow : Bool)
  | insertedWindow (sett temp : Nat) (upsets : List Upset) (marginLow : Bool)
  | freeRunningWindow (sett temp : Nat) (upsets : List Upset) (marginLow : Bool)
  | guardWindow (sett temp : Nat) (upsets : List Upset) (marginLow : Bool)
  | tideSyncPulse
  | refLost (die : Nat)
  | refRecovery (die : Nat)
  | controlPeriod (r : Readings)
  | fastLimit
  | fastLimitEnd
  | powerTrip (cause die value : Nat)
  | enterFaulted (code die : Nat)
  | boardEnHigh
  | powerGood (addrSel : Bool)
  | powerGoodTimeout
  | boardEnLow
  | supplyOff
  | fuse (f : Fuses) (d : BootDraws)
  | flash (image : Option (List Byte))
  | verify
  | config (badDie : Option Nat)
  | bootWipe (us : Nat) (badDie : Option Nat)
  | ready (nonce : List Byte) (locked : Bool) (ms : Nat)
  | timeout
  | bootReport
  | keyReport
  | telemetry (r : Readings)
  | errorReport (code die block basin : Nat) (record : Word)
  | trngFail
  | replacementBlow
  | cmd (d : Dgram) (e : CmdEnv)
  | ack (d : Dgram)
  | sendAck (flow : Nat)
  | openFlow (d : Dgram)
  | hdata (d : Dgram) (e : CmdEnv)
  | rto (flow psn : Nat)
  | hostTimeout (flow tag : Nat)
  | beat
  | hostSilent
  | arpRequest (mgmt : Bool) (addr : Nat)
  | neighborSolicitation (mgmt : Bool) (addr : Nat)
  | priorityFlowControl (pcp : Nat) (pause : Bool)
  | xqReset (die queue : Nat) (tx : Bool) (port : Nat)
  | xqTimeout (die queue : Nat)
  | forward (m : LinkMsg)
  | nak (port expected : Nat)
  | retry (port : Nat)
  | portFail (port reason : Nat)
  | portctl (on : PortIn) (failed : Nat)
  | rotationPeriod
  | rotationStandby
  | rotationJoin
  | contrib (m : LinkMsg)
  | grant (m : LinkMsg)
  | result (m : LinkMsg)
  | data (m : LinkMsg)
  | ebbStart (m : LinkMsg)
  | ebbEnd (m : LinkMsg)
  | barArrive (m : LinkMsg)
  | barRelease (m : LinkMsg)
  | slotActive (link slot : Nat)
  | copy (on : PortIn) (dst : Nat) (data : List Byte) (poison : List Bool)
  | test (on : PortIn) (payload : List Byte)
  | extest
  | idcode
  | samplePreload (cells : List Byte)
  | clamp
  | highz
  | idread
  | jtagPrivate (code : Nat) (addr : Nat) (write : Option Word)
  | bypass (code : Nat)
  | i2cWriteOffset (w : I2cAccess)
  | i2cRead (r : I2cAccess)
  | idle (port ack cvc ccount : Nat)
  | linkBringUp (port oneWay : Nat)
  | quayLinkDown
  | quayLinkUp (locked : Nat)
  | mgmtLinkDown
  | mgmtLinkUp
  | testLogicReset
  | barOver (core : Nat)
  deriving DecidableEq, Repr

end Sys2Proof
end

