-- ==== Sys2Proof/Decode.lean ====
section
/-! DEFINITION. The decoder over the rows of opcode_table.json that give bits: no row does, so no word spells a command.
Command packets are read by the CMD command (Machine/Commands.lean). -/

namespace Sys2Proof

/-- No row of the opcode table gives bits, so no word spells a command. -/
def decodeTableWord (_nbits _w : Nat) : Option Instr := none

end Sys2Proof
end

