-- ==== Sys2Proof/Config.lean ====
section
/-! DEFINITION. What an implementation fixes and the spec does not give: uninterpreted constants, none with a body, so
that nothing can be proved from a value of one. -/

namespace Sys2Proof.Config

/-- A free value: what the spec leaves undefined after an operation that goes on (R361, R398: CHK_STATE and CHK_RESULT
after a digest command). Applied to a counter the step reads and advances (log entry 8, DESIGN CHOICE). -/
opaque freeValue : Nat → BitVec 64

/-- The bit that the inner code of a DRAM die miscorrects in a word with two or more wrong bits, modulo 129; 128 stands for none. R192 gives
the code's size and not its check matrix (log entry 41, DEDUCED). -/
opaque innerTurn : Nat → Nat

/-- The state in which the PRBS31 generator of a test message starts; R320 does not give it (log entry 61, PRESUMED). -/
opaque prbsStart : Nat

/-- SHA-384 of a byte list (R415, R422, R424), 48 bytes, by its own standard (log entry 7, DESIGN CHOICE). -/
opaque sha384 : List Byte → List Byte

/-- HMAC-SHA-384 of a message under a key (R429). -/
opaque hmacSha384 : List Byte → List Byte → List Byte

/-- The Ed25519 public key of a private key (RFC 8032), 32 bytes (R429). -/
opaque ed25519Public : List Byte → List Byte

/-- An Ed25519 signature by a private key over a message, 64 bytes (R432, R443, R445). -/
opaque ed25519Sign : List Byte → List Byte → List Byte

/-- Whether an Ed25519 signature verifies: public key, message, signature (R422, R436). -/
opaque ed25519Verify : List Byte → List Byte → List Byte → Bool

/-- The ML-DSA-65 public key that KeyGen gives for a seed (FIPS 204), 1,952 bytes (R429). -/
opaque mldsaPublic : List Byte → List Byte

/-- An ML-DSA-65 signature for a seed over a message with an empty context, 3,309 bytes (R432). -/
opaque mldsaSign : List Byte → List Byte → List Byte

/-- Whether an ML-DSA-65 signature verifies: public key, message, signature (R422, R436). -/
opaque mldsaVerify : List Byte → List Byte → List Byte → Bool

/-- The SHA-384 of the manufacturing Ed25519 key, fixed in the pilot's ROM (R422). -/
opaque romHashEd : List Byte

/-- The SHA-384 of the manufacturing ML-DSA-65 key, fixed in the pilot's ROM (R422). -/
opaque romHashMl : List Byte

/-- Whether a supply target in mV lies within the fused range of an operating point (R466, Table 13.10). -/
opaque supplyOk : Nat → Nat → Bool

/-- Whether a private JTAG code reaches memory; it reaches registers otherwise (R440 gives no encoding). -/
opaque jtagMemory : Nat → Bool

/-- Flontiwa's JEP106 code in the JTAG IDCODE (R440), from fuses. -/
opaque jep106 : Nat

end Sys2Proof.Config
end

