-- ==== Sys2Proof/Machine/Bits.lean ====
section
/-! DEFINITION. Bit fields, byte order and small list helpers, all by structural recursion over plain numbers. -/

namespace Sys2Proof.Machine

/-- Bits `[lo + w - 1 : lo]` of a number, as an unsigned value (R17 `x[hi:lo]`). -/
def bits (x lo w : Nat) : Nat := (x >>> lo) % 2 ^ w

/-- Field of a register, `w` bits from bit `lo`. -/
def fget (v : Word) (lo w : Nat) : Nat := bits v.toNat lo w

/-- The mask of a field of `w` bits from bit `lo`. -/
def fmask (lo w : Nat) : Word := BitVec.ofNat 64 ((2 ^ w - 1) <<< lo)

/-- A register with the field of `w` bits from bit `lo` replaced by `x` (reduced to the field's width). -/
def fset (v : Word) (lo w x : Nat) : Word :=
  (v &&& ~~~ fmask lo w) ||| BitVec.ofNat 64 ((x % 2 ^ w) <<< lo)

/-- Bit `i` of a register as a flag. -/
def fbit (v : Word) (i : Nat) : Bool := fget v i 1 == 1

/-- A register with bit `i` set to `b`. -/
def fsetBit (v : Word) (i : Nat) (b : Bool) : Word := fset v i 1 b.toNat

/-- The value of `w` bits with one added, saturating at all ones (R11, R118). -/
def satAdd (w x k : Nat) : Nat := min (x + k) (2 ^ w - 1)

/-- A number of `n` bytes in little-endian order (R16). -/
def toLE : Nat → Nat → List Byte
  | 0, _ => []
  | n + 1, x => BitVec.ofNat 8 x :: toLE n (x >>> 8)

/-- The number that little-endian bytes spell (R16). -/
def fromLE : List Byte → Nat
  | [] => 0
  | b :: t => b.toNat + 256 * fromLE t

/-- `n` bytes from offset `off` of a byte list; bytes past its end read as zero. -/
def sliceB (l : List Byte) (off n : Nat) : List Byte :=
  let s := (l.drop off).take n
  s ++ List.replicate (n - s.length) 0

/-- The little-endian number in `n` bytes from offset `off`. -/
def leAt (l : List Byte) (off n : Nat) : Nat := fromLE (sliceB l off n)

/-- The two's-complement value of a `w`-bit number (R17, sN). -/
def signed (w x : Nat) : Int := if x < 2 ^ (w - 1) then (x : Int) else (x : Int) - (2 ^ w : Int)

/-- `ceil (a / b)` for positive `b`. -/
def ceilDiv (a b : Nat) : Nat := (a + b - 1) / b

/-- A list of elements indexed `0 .. n-1`. -/
def tabulate {α : Type} (n : Nat) (f : Nat → α) : List α := (List.range n).map f

/-- The list with the element at index `i` replaced by its image under `f`; unchanged past the end. -/
def modifyAt {α : Type} : List α → Nat → (α → α) → List α
  | [], _, _ => []
  | a :: t, 0, f => f a :: t
  | a :: t, n + 1, f => a :: modifyAt t n f

/-- Apply `f` to the numbers `0 .. n-1` in ascending order, threading a value. -/
def foldN {α : Type} (n : Nat) (f : α → Nat → α) (a : α) : α := (List.range n).foldl f a

/-- Cut a list into chunks of `k` elements; `fuel` bounds the number of chunks. -/
def chunksAux {α : Type} (k : Nat) : Nat → List α → List (List α)
  | 0, _ => []
  | _ + 1, [] => []
  | fuel + 1, l => l.take k :: chunksAux k fuel (l.drop k)

/-- Cut a list into chunks of `k` elements, the last possibly shorter. -/
def chunks {α : Type} (k : Nat) (l : List α) : List (List α) := chunksAux k l.length l

/-- Add neighbours pairwise (elements 2i and 2i + 1); an odd last element stands alone. -/
def pairUp {α : Type} (add : α → α → α) : List α → List α
  | a :: b :: t => add a b :: pairUp add t
  | [a] => [a]
  | [] => []

/-- A pairwise tree over a list, levels bounded by `fuel`. -/
def treeAux {α : Type} (add : α → α → α) (zero : α) : Nat → List α → α
  | _, [] => zero
  | _, [a] => a
  | 0, a :: _ => a
  | fuel + 1, l => treeAux add zero fuel (pairUp add l)

/-- A pairwise tree: each level combines elements 2i and 2i + 1 of the level below (R84, R123, R162, R332). -/
def tree {α : Type} (add : α → α → α) (zero : α) (l : List α) : α := treeAux add zero l.length l

/-- ASCII bytes of a string (R418, R422). -/
def ascii (s : String) : List Byte := s.toList.map fun c => BitVec.ofNat 8 c.toNat

/-- Newton's descent to the floor of a square root from a start above it; `fuel` bounds the steps. -/
def isqrtAux (x : Nat) : Nat → Nat → Nat
  | 0, r => r
  | n + 1, r =>
    let r' := (r + x / r) / 2
    if r' < r then isqrtAux x n r' else r

/-- Floor of the square root. -/
def isqrt (x : Nat) : Nat := if x = 0 then 0 else isqrtAux x (Nat.log2 x + 2) (2 ^ (Nat.log2 x / 2 + 1))

/-- A value shifted left by an integer: left for positive `k`, right (toward zero) for negative. -/
def shl (x : Nat) (k : Int) : Nat := if 0 ≤ k then x <<< k.toNat else x >>> (-k).toNat

/-- The sum of a list of numbers. -/
def sumN (l : List Nat) : Nat := l.foldl (· + ·) 0

/-- The bytes whose little-endian value packs `w`-bit elements densely, element i at bit w × i (R52). -/
def packBits (w : Nat) (l : List Nat) : List Byte :=
  toLE ((w * l.length + 7) / 8) ((l.zip (List.range l.length)).foldl (fun a p => a + (p.1 % 2 ^ w) <<< (w * p.2)) 0)

/-- Element i of a dense packing of `w`-bit elements (R52). -/
def unpackAt (w i : Nat) (l : List Byte) : Nat := bits (fromLE l) (w * i) w

end Sys2Proof.Machine
end

