-- ==== Sys2Proof/Machine/Formats.lean ====
section
/-! DEFINITION. Number formats, products, sums and conversions (02_number_formats.md), and the exact FP32 operations of the
vector stages (R155, R156). Every value is a fixed function of operand bits. -/

namespace Sys2Proof.Machine

/-- The nine storage formats of Tables 02.10 and 03.3. -/
inductive Fmt where
  | l4 | l3 | l2 | l8 | l8s | l16 | a40 | fp32 | bf16
  deriving DecidableEq, Repr

namespace Fmt
/-- Operand format code (Table 02.10); none where reserved. -/
def ofOperand (c : Nat) : Option Fmt := [l4, l3, l2, l8, l8s, l16][c]?
/-- Output format code (Table 03.3); none where reserved. -/
def ofOutput (c : Nat) : Option Fmt :=
  match c with
  | 0 => some l4
  | 1 => some l3
  | 2 => some l2
  | 3 => some l8
  | 4 => some l8s
  | 5 => some l16
  | 8 => some a40
  | 9 => some fp32
  | 10 => some bf16
  | _ => none
/-- Bits of one element (Table 02.1). -/
def width : Fmt → Nat
  | l4 => 4
  | l3 => 3
  | l2 => 2
  | l8 => 8
  | l8s => 8
  | l16 => 16
  | a40 => 40
  | fp32 => 32
  | bf16 => 16
/-- Whether a tensor of the format carries E8 block scales. -/
def isBlock : Fmt → Bool
  | l4 => true
  | l3 => true
  | l2 => true
  | l8s => true
  | _ => false
/-- Whether the format is a log format (the layer scale acts on these alone, R79). -/
def isLog : Fmt → Bool
  | a40 => false
  | fp32 => false
  | bf16 => false
  | _ => true
/-- Log steps per octave (Table 02.10; L3 and L2 expand to L4). -/
def steps : Fmt → Nat
  | l8 => 8
  | l8s => 8
  | l16 => 256
  | _ => 2
/-- Products per cell per cycle of the format (Table 02.11). -/
def perCell : Fmt → Nat
  | l8 => 2
  | l8s => 2
  | l16 => 1
  | _ => 4
/-- Bytes that `k` elements occupy. -/
def bytes (f : Fmt) (k : Nat) : Nat := (k * f.width + 7) / 8
end Fmt

/-- The value of a linear encoding: exact, sign and magnitude `m × 2 ^ e`. -/
inductive Val where
  | nan
  | inf (neg : Bool)
  | fin (neg : Bool) (m : Nat) (e : Int)
  deriving DecidableEq, Repr

namespace Val
def zero : Val := fin false 0 0
def isFinite : Val → Bool
  | fin _ _ _ => true
  | _ => false
def isNan : Val → Bool
  | nan => true
  | _ => false
def isInf : Val → Bool
  | inf _ => true
  | _ => false
def isZero : Val → Bool
  | fin _ m _ => m == 0
  | _ => false
def negate : Val → Val
  | nan => nan
  | inf n => inf (!n)
  | fin n m e => fin (!n) m e
def abs : Val → Val
  | nan => nan
  | inf _ => inf false
  | fin _ m e => fin false m e
/-- Times 2 ^ k, exactly (R79). -/
def scale (k : Int) : Val → Val
  | nan => nan
  | inf n => inf n
  | fin n m e => fin n m (e + k)
end Val

/-- Compare two magnitudes `m × 2 ^ e` exactly. -/
def cmpMag (m1 : Nat) (e1 : Int) (m2 : Nat) (e2 : Int) : Ordering :=
  let e := min e1 e2
  compare (m1 <<< (e1 - e).toNat) (m2 <<< (e2 - e).toNat)

/-- `m1 × 2 ^ e1 ≤ m2 × 2 ^ e2`. -/
def leMag (m1 : Nat) (e1 : Int) (m2 : Nat) (e2 : Int) : Bool := cmpMag m1 e1 m2 e2 != .gt

/-- The signed integer of an exact value at the exponent `e`, which must not exceed the value's own. -/
def atExp (neg : Bool) (m : Nat) (e0 e : Int) : Int :=
  let x : Int := (m <<< (e0 - e).toNat : Nat)
  if neg then -x else x

/-- A binary floating-point layout: exponent and fraction widths; the bias is 2 ^ (eb - 1) - 1. -/
structure Bin where
  eb : Nat
  fb : Nat
  deriving DecidableEq, Repr

/-- A40 (R61). -/
def binA40 : Bin := { eb := 11, fb := 28 }
/-- FP32 (R62). -/
def binF32 : Bin := { eb := 8, fb := 23 }
/-- bfloat16 (R62). -/
def binBf : Bin := { eb := 8, fb := 7 }

namespace Bin
def bias (b : Bin) : Int := (2 ^ (b.eb - 1) - 1 : Nat)
/-- Encoding of +infinity. -/
def infEnc (b : Bin) : Nat := (2 ^ b.eb - 1) * 2 ^ b.fb
/-- The canonical not-a-number (R61, R62). -/
def nanEnc (b : Bin) : Nat := b.infEnc + 2 ^ (b.fb - 1)
def signBit (b : Bin) (neg : Bool) : Nat := if neg then 2 ^ (b.eb + b.fb) else 0
/-- The value of an encoding (Table 02.9; IEEE 754). -/
def dec (b : Bin) (x : Nat) : Val :=
  let f := bits x 0 b.fb
  let e := bits x b.fb b.eb
  let neg := bits x (b.fb + b.eb) 1 == 1
  if e = 2 ^ b.eb - 1 then (if f = 0 then .inf neg else .nan)
  else if e = 0 then .fin neg f (1 - b.bias - (b.fb : Int))
  else .fin neg (2 ^ b.fb + f) ((e : Int) - b.bias - (b.fb : Int))

/-- The exponent of the unit in the last place for a magnitude with leading exponent `lead`. -/
def ulpExp (b : Bin) (lead : Int) : Int := max lead (1 - b.bias) - (b.fb : Int)

/-- The encoding (sign aside) of `n` units in the last place at leading exponent `lead`; a carry out of the fraction moves
into the exponent field. -/
def place (b : Bin) (lead : Int) (n : Nat) : Nat :=
  (max lead (1 - b.bias) + b.bias - 1).toNat * 2 ^ b.fb + n

/-- Round an exact magnitude to nearest, ties to even; `sticky` says that the exact value lies a little above
`m × 2 ^ e`. Gives the unsigned encoding; at or above `infEnc` it has overflowed. -/
def roundMag (b : Bin) (m : Nat) (e : Int) (sticky : Bool) : Nat :=
  if m = 0 then 0 else
  let m2 := 4 * m + sticky.toNat
  let e2 := e - 2
  let lead := (Nat.log2 m2 : Int) + e2
  let q := b.ulpExp lead
  let sh := q - e2
  if sh ≤ 0 then b.place lead (m2 <<< (-sh).toNat)
  else
    let k := sh.toNat
    let n := m2 >>> k
    let r := m2 % 2 ^ k
    let h := 2 ^ (k - 1)
    let up := r > h || (r == h && n % 2 == 1)
    b.place lead (n + up.toNat)

/-- Encode a value, rounding to nearest even; a finite overflow becomes infinity (IEEE 754). -/
def enc (b : Bin) (v : Val) : Nat :=
  match v with
  | .nan => b.nanEnc
  | .inf n => b.signBit n + b.infEnc
  | .fin n m e => b.signBit n + min (b.roundMag m e false) b.infEnc

/-- Whether a finite value overflows under nearest rounding (R77: IEEE 754 sets the bound). -/
def overflows (b : Bin) (v : Val) : Bool :=
  match v with
  | .fin _ m e => b.infEnc ≤ b.roundMag m e false
  | _ => false
end Bin

def decA40 (x : A40) : Val := binA40.dec x.toNat
def encA40 (v : Val) : A40 := BitVec.ofNat 40 (binA40.enc v)
def decF32 (x : F32) : Val := binF32.dec x.toNat
def encF32 (v : Val) : F32 := BitVec.ofNat 32 (binF32.enc v)
def nanA40 : A40 := encA40 .nan
def nanF32 : F32 := encF32 .nan

/-- The causes of Table 05.12, in code order. -/
inductive Cause where
  | nanInput | invalidProduct | invalidSum | infInput | overflow | invalidFunc | divZero
  deriving DecidableEq, Repr

/-- The code of a cause (Table 05.12). -/
def Cause.code : Cause → Nat
  | .nanInput => 1
  | .invalidProduct => 2
  | .invalidSum => 3
  | .infInput => 4
  | .overflow => 5
  | .invalidFunc => 6
  | .divZero => 7

/-- An exact sum; an exact zero from addends of unlike sign is +0, of like sign that zero (IEEE 754). -/
def addExact (n1 : Bool) (m1 : Nat) (e1 : Int) (n2 : Bool) (m2 : Nat) (e2 : Int) : Val :=
  let e := min e1 e2
  let z := atExp n1 m1 e1 e + atExp n2 m2 e2 e
  if z = 0 then .fin (n1 && n2) 0 0 else .fin (z < 0) z.natAbs e

/-- IEEE 754 addition of values, before rounding. -/
def addVal (x y : Val) : Val :=
  match x, y with
  | .nan, _ => .nan
  | _, .nan => .nan
  | .inf a, .inf b => if a = b then .inf a else .nan
  | .inf a, .fin _ _ _ => .inf a
  | .fin _ _ _, .inf b => .inf b
  | .fin n1 m1 e1, .fin n2 m2 e2 => addExact n1 m1 e1 n2 m2 e2

/-- IEEE 754 multiplication of values, before rounding. -/
def mulVal (x y : Val) : Val :=
  match x, y with
  | .nan, _ => .nan
  | _, .nan => .nan
  | .inf a, .inf b => .inf (a != b)
  | .inf a, .fin b m _ => if m = 0 then .nan else .inf (a != b)
  | .fin a m _, .inf b => if m = 0 then .nan else .inf (a != b)
  | .fin a m1 e1, .fin b m2 e2 => .fin (a != b) (m1 * m2) (e1 + e2)

/-- An A40 addition (R69): the exact sum rounded once, an exact zero +0. -/
def a40Add (x y : A40) : A40 :=
  match addVal (decA40 x) (decA40 y) with
  | .fin n m e => encA40 (if m = 0 then Val.zero else .fin n m e)
  | v => encA40 v

/-- Whether an A40 addition is +∞ + −∞ (R69, INVALID_SUM). -/
def a40InvalidSum (x y : A40) : Bool :=
  match decA40 x, decA40 y with
  | .inf a, .inf b => a != b
  | _, _ => false

/-- The A40 value with its sign changed, not-a-number kept. -/
def a40Neg (x : A40) : A40 := encA40 (decA40 x).negate
def a40Abs (x : A40) : A40 := encA40 (decA40 x).abs
def a40Finite (x : A40) : Bool := (decA40 x).isFinite

/-- The conversion table T_256: round(2 ^ (f / 256) × 2 ^ 28) − 2 ^ 28, by eight nested integer square roots (R65). -/
def t256 (f : Nat) : Nat :=
  let r := (List.range 8).foldl (fun x _ => isqrt x) (2 ^ (f + 256 * 29))
  (r + 1) / 2 - 2 ^ 28

/-- T_n[f] for n = 2, 8 or 256 (R65; Table 02.12 in full for T_2 and T_8). -/
def tab (n f : Nat) : Nat :=
  if n = 2 then (if f = 0 then 0 else 0x6A09E66)
  else if n = 8 then
    match f with
    | 0 => 0
    | 1 => 0x172B83C
    | 2 => 0x306FE0A
    | 3 => 0x4BFDAD5
    | 4 => 0x6A09E66
    | 5 => 0x8ACE542
    | 6 => 0xAE89F99
    | _ => 0xD5818DD
  else t256 f

/-- A decoded log operand: log code `l` in steps of 1/n octave and a scale exponent. -/
inductive LogVal where
  | nan
  | zero
  | inf (neg : Bool)
  | fin (neg : Bool) (l : Int) (n : Nat) (e : Int)
  deriving DecidableEq, Repr

/-- Decode of a log code under a scale byte (R54 to R60, Tables 02.2 to 02.10); the scale byte is ignored by unscaled
formats. -/
def decLog (f : Fmt) (code scale : Nat) : LogVal :=
  let e : Int := (scale : Int) - 127
  let special (z spare topP topN : Nat) : LogVal :=
    if code = z then .zero else if code = spare then .nan
    else if code = topP then .inf false else if code = topN then .inf true else .nan
  match f with
  | .l4 =>
    if scale = 255 then special 0 8 7 15 else
    let m := code % 8
    if m = 0 then .zero else .fin (8 ≤ code) ((m : Int) - 7) 2 e
  | .l3 =>
    if scale = 255 then special 0 4 3 7 else
    let m := code % 4
    if m = 0 then .zero else .fin (4 ≤ code) (2 * (m : Int) - 6) 2 e
  | .l2 =>
    if scale = 255 then special 0 2 1 3 else
    if code % 2 = 0 then .zero else .fin (2 ≤ code) 0 2 e
  | .l8s =>
    if scale = 255 then special 0 0x80 0x7F 0xFF else
    let m := code % 128
    if code = 0 then .zero else if code = 0x80 then .nan
    else if m = 127 then .inf (128 ≤ code) else .fin (128 ≤ code) ((m : Int) - 64) 8 e
  | .l16 =>
    let m := code % 32768
    if code = 0 then .zero else if code = 0x8000 then .nan
    else if m = 32767 then .inf (32768 ≤ code) else .fin (32768 ≤ code) ((m : Int) - 16384) 256 0
  | _ =>
    let m := code % 128
    if code = 0 then .zero else if code = 0x80 then .nan
    else if m = 127 then .inf (128 ≤ code) else .fin (128 ≤ code) ((m : Int) - 64) 8 0

/-- 2 ^ (q / n) with a sign, in A40's terms (R64). -/
def pow2Frac (neg : Bool) (q : Int) (n : Nat) : Val :=
  let i := q.fdiv (n : Int)
  let f := (q - i * (n : Int)).toNat
  .fin neg (2 ^ 28 + tab n f) (i - 28)

/-- The scaled A40 decode of a log operand (R72). -/
def LogVal.val : LogVal → Val
  | .nan => .nan
  | .zero => Val.zero
  | .inf n => .inf n
  | .fin neg l n e => pow2Frac neg (l + e * (n : Int)) n

/-- A product of two log operands in A40, with the cause it charges (R64, R67, Table 02.14). -/
def product (a b : LogVal) : A40 × Option Cause :=
  match a, b with
  | .nan, _ => (nanA40, some .nanInput)
  | _, .nan => (nanA40, some .nanInput)
  | .inf _, .zero => (nanA40, some .invalidProduct)
  | .zero, .inf _ => (nanA40, some .invalidProduct)
  | .inf x, .inf y => (encA40 (.inf (x != y)), some .infInput)
  | .inf x, .fin y _ _ _ => (encA40 (.inf (x != y)), some .infInput)
  | .fin x _ _ _, .inf y => (encA40 (.inf (x != y)), some .infInput)
  | .zero, _ => (0, none)
  | _, .zero => (0, none)
  | .fin sa la na ea, .fin sb lb nb eb =>
    let n := max na nb
    let qa := la * ((n / na : Nat) : Int) + ea * (n : Int)
    let qb := lb * ((n / nb : Nat) : Int) + eb * (n : Int)
    (encA40 (pow2Frac (sa != sb) (qa + qb) n), none)

/-- The checksum row's product of an A40 value and a log operand (R68): a zero result is +0. -/
def mixProduct (x : A40) (w : LogVal) : A40 :=
  match mulVal (decA40 x) w.val with
  | .fin n m e => if m = 0 then 0 else
      let r := encA40 (.fin n m e)
      if r.toNat % 2 ^ 39 = 0 then 0 else r
  | v => encA40 v

/-! ### Conversion into narrower formats (R71 to R78) -/

/-- Rounding control (Table 02.17). -/
structure Rnd where
  stoch : Bool
  sat : Bool
  reserved : Bool
  deriving DecidableEq, Repr

/-- The 4-bit rounding control field; a reserved mode executes as nearest (R71). -/
def Rnd.ofBits (x : Nat) : Rnd := { stoch := x % 4 == 1, sat := bits x 2 1 == 1, reserved := 2 ≤ x % 4 }

/-- Largest finite code of a log format. -/
def topCode : Fmt → Nat
  | .l4 => 7
  | .l3 => 3
  | .l2 => 1
  | .l16 => 32766
  | _ => 126

/-- The magnitude of code `m` at scale 1, as mantissa and exponent; zero for m = 0. -/
def codeMag (f : Fmt) (m : Nat) : Nat × Int :=
  if m = 0 then (0, 0) else
  match (decLog f m 127).val with
  | .fin _ a e => (a, e)
  | _ => (0, 0)

/-- The largest code with a magnitude of at most `m × 2 ^ e`, at most the top code: a binary search. -/
def floorCode (f : Fmt) (m : Nat) (e : Int) : Nat :=
  let le (c : Nat) : Bool := let v := codeMag f c; leMag v.1 v.2 m e
  (List.range 15).foldl (fun lo j => let c := lo + 2 ^ (14 - j); if c ≤ topCode f && le c then c else lo) 0

/-- Overflow of a magnitude already divided by its scale: at or above the top code plus half the gap below it (R77). -/
def logOverflows (f : Fmt) (m : Nat) (e : Int) : Bool :=
  let t := codeMag f (topCode f)
  let b := codeMag f (topCode f - 1)
  let e' := min (min t.2 b.2) e
  let tv : Int := (t.1 <<< (t.2 - e').toNat : Nat)
  let bv : Int := (b.1 <<< (b.2 - e').toNat : Nat)
  let xv : Int := (m <<< (e - e').toNat : Nat)
  3 * tv - bv ≤ 2 * xv

/-- Round a magnitude between two neighbours: `u` is bits [15:0] of the draw in stochastic mode, else none (R73, R76).
The tie goes to the neighbour `loEven` names. -/
def roundUp (x lo hi : Nat) (loEven : Bool) (u : Option Nat) : Bool :=
  match u with
  | some d => d < 2 ^ 16 * (x - lo) / (hi - lo)
  | none => if 2 * x = lo + hi then !loEven else lo + hi < 2 * x

/-- The code magnitude of a finite value already divided by its scale (R73, R74, R76). -/
def toCode (f : Fmt) (m : Nat) (e : Int) (u : Option Nat) : Nat :=
  let lo := floorCode f m e
  if lo = topCode f then lo else
  let a := codeMag f lo
  let b := codeMag f (lo + 1)
  let e' := min (min a.2 b.2) e
  if roundUp (m <<< (e - e').toNat) (a.1 <<< (a.2 - e').toNat) (b.1 <<< (b.2 - e').toNat) (lo % 2 == 0) u
  then lo + 1 else lo

/-- The sign bit of a log format's code. -/
def signCode (f : Fmt) (neg : Bool) (m : Nat) : Nat := if neg && m != 0 then m + 2 ^ (f.width - 1) else m

/-- The code of ±infinity: the top code of a special block, or m all ones (R58 to R60). -/
def infCode (f : Fmt) (neg : Bool) : Nat := signCode f neg (2 ^ (f.width - 1) - 1)

/-- The not-a-number (spare) code (R58 to R60). -/
def nanCode (f : Fmt) : Nat := 2 ^ (f.width - 1)

/-- What a conversion of one element gives: the code, whether it saturated, whether it overflowed to infinity. -/
structure ConvElt where
  code : Nat
  sat : Bool := false
  ovf : Bool := false
  deriving DecidableEq, Repr

/-- Convert into a linear format by R72 and Table 02.18; stochastic mode acts on bfloat16 alone. -/
def convLinear (f : Fmt) (r : Rnd) (u : Option Nat) (v : Val) : ConvElt :=
  let b := match f with
    | .a40 => binA40
    | .bf16 => binBf
    | _ => binF32
  if b.overflows v then
    match v with
    | .fin n _ _ => if r.sat then { code := b.signBit n + b.infEnc - 1, sat := true }
                    else { code := b.signBit n + b.infEnc, ovf := true }
    | _ => { code := b.enc v }
  else
    match v, u with
    | .fin n m e, some d =>
      if f = .bf16 && m != 0 then
        let lead := (Nat.log2 m : Int) + e
        let q := b.ulpExp lead
        let sh := q - e
        if sh ≤ 0 then { code := b.enc v }
        else
          let k := sh.toNat
          let lo := m >>> k
          let up := roundUp m (lo <<< k) ((lo + 1) <<< k) true (some d)
          { code := b.signBit n + min (b.place lead (lo + up.toNat)) (b.infEnc - 1) }
      else { code := b.enc v }
    | _, _ => { code := b.enc v }

/-- Convert into an unscaled log format (R59, R60, R73, R77). -/
def convLog (f : Fmt) (r : Rnd) (u : Option Nat) (v : Val) : ConvElt :=
  match v with
  | .nan => { code := nanCode f }
  | .inf n => { code := infCode f n }
  | .fin n m e =>
    if logOverflows f m e then
      if r.sat then { code := signCode f n (topCode f), sat := true } else { code := infCode f n, ovf := true }
    else { code := signCode f n (toCode f m e u) }

/-- ceil (log2 m × 2 ^ e) of a non-zero magnitude (R75). -/
def ceilLog2 (m : Nat) (e : Int) : Int :=
  let l := Nat.log2 m
  if m = 2 ^ l then (l : Int) + e else (l : Int) + e + 1

/-- The larger of two magnitudes. -/
def maxMag (a b : Nat × Int) : Nat × Int := if leMag a.1 a.2 b.1 b.2 then b else a

/-- Convert one block of elements with its own scale (R75 to R77). Inactive elements are `none`, take no part in the choice
and are written as code zero (R53). Gives the scale byte, the elements, and whether an element overflowed. -/
def convBlock (f : Fmt) (r : Rnd) (us : List (Option Nat)) (vs : List (Option Val)) : Nat × List ConvElt :=
  let act := vs.filterMap id
  if act.any Val.isNan then (255, vs.map fun v => { code := if v.isNone then 0 else nanCode f })
  else
    let mg := act.foldl (fun a v => match v with
      | .fin _ m e => if m = 0 then a else if a.1 = 0 then (m, e) else maxMag a (m, e)
      | _ => a) ((0, 0) : Nat × Int)
    let infBlock (ovf : Nat → Val → Bool) : Nat × List ConvElt :=
      (255, (vs.zip (List.range vs.length)).map fun p => match p.1 with
        | none => { code := 0 }
        | some (.inf n) => { code := infCode f n }
        | some (.fin n m e) => if m = 0 then { code := 0 } else { code := infCode f n, ovf := ovf p.2 (.fin n m e) }
        | some .nan => { code := nanCode f })
    if act.any Val.isInf then infBlock fun _ _ => false
    else if mg.1 = 0 then (127, vs.map fun _ => { code := 0 })
    else
      let c := ceilLog2 mg.1 mg.2
      let e := if f = .l8s then c - 7 else c
      let s : Int := min (max (e + 127) 0) 254
      let sc := s - 127
      let ovf (v : Val) : Bool := match v with
        | .fin _ m x => m != 0 && logOverflows f m (x - sc)
        | _ => false
      if act.any ovf && !r.sat then infBlock fun _ v => ovf v
      else
        (s.toNat, (vs.zip us).map fun p => match p.1 with
          | some (.fin n m x) =>
            if ovf (.fin n m x) then { code := signCode f n (topCode f), sat := true }
            else { code := signCode f n (toCode f m (x - sc) p.2) }
          | _ => { code := 0 })

/-- The value a stored element has: a linear encoding, or a log code under its scale byte (R72). -/
def decElt (f : Fmt) (code scale : Nat) : Val :=
  match f with
  | .a40 => binA40.dec code
  | .fp32 => binF32.dec code
  | .bf16 => binBf.dec code
  | _ => (decLog f code scale).val

/-- Conversion to FP32 with its rounding control (Table 02.18): the encoding, saturation and overflow. -/
def toF32 (r : Rnd) (v : Val) : ConvElt := convLinear .fp32 r none v

/-! ### FP32 operations (R155, R156) -/

def f32Add (x y : F32) : F32 := encF32 (addVal (decF32 x) (decF32 y))
def f32Mul (x y : F32) : F32 := encF32 (mulVal (decF32 x) (decF32 y))
def f32Fma (x y z : F32) : F32 := encF32 (addVal (mulVal (decF32 x) (decF32 y)) (decF32 z))
def f32Neg (x : F32) : F32 := encF32 (decF32 x).negate
def f32Abs (x : F32) : F32 := encF32 (decF32 x).abs
def f32Sub (x y : F32) : F32 := f32Add x (f32Neg y)

/-- The FP32 encoding of a natural number, rounded to nearest even (Table 05.6 selector 49). -/
def f32OfNat (n : Nat) : F32 := encF32 (.fin false n 0)

/-- Order of two values that are not not-a-number; +0 equals −0. -/
def cmpVal (x y : Val) : Ordering :=
  match x, y with
  | .inf a, .inf b => if a = b then .eq else if a then .lt else .gt
  | .inf a, _ => if a then .lt else .gt
  | _, .inf b => if b then .gt else .lt
  | .fin n1 m1 e1, .fin n2 m2 e2 => let e := min e1 e2; compare (atExp n1 m1 e1 e) (atExp n2 m2 e2 e)
  | _, _ => .eq

/-- Relation 0 EQ, 1 NE, 2 LT, 3 LE, 4 GT, 5 GE; a not-a-number makes every relation false except NE (Table 05.7). -/
def f32Rel (rel : Nat) (x y : F32) : Bool :=
  let a := decF32 x
  let b := decF32 y
  if a.isNan || b.isNan then rel == 1 else
  let o := cmpVal a b
  match rel with
  | 0 => o == .eq
  | 1 => o != .eq
  | 2 => o == .lt
  | 3 => o != .gt
  | 4 => o == .gt
  | _ => o != .lt

/-- MAX: a not-a-number operand gives not-a-number, MAX(−0, +0) is +0 (Table 05.7). -/
def f32Max (x y : F32) : F32 :=
  let a := decF32 x
  let b := decF32 y
  if a.isNan || b.isNan then nanF32 else
  match cmpVal a b with
  | .lt => y
  | .gt => x
  | .eq => if x.toNat ≥ 2 ^ 31 then y else x

/-- MIN: a not-a-number operand gives not-a-number, MIN(−0, +0) is −0 (Table 05.7). -/
def f32Min (x y : F32) : F32 :=
  let a := decF32 x
  let b := decF32 y
  if a.isNan || b.isNan then nanF32 else
  match cmpVal a b with
  | .lt => x
  | .gt => y
  | .eq => if x.toNat ≥ 2 ^ 31 then x else y

/-- A positive value `m × 2 ^ e`, a little above where `sticky` says so, in FP32. -/
def f32Round (neg : Bool) (m : Nat) (e : Int) (sticky : Bool) : F32 :=
  BitVec.ofNat 32 (binF32.signBit neg + min (binF32.roundMag m e sticky) binF32.infEnc)

/-- Working precision of EXP2 in fraction bits. -/
def exp2Prec : Nat := 96

/-- 2 ^ (F / 2 ^ k) for F below 2 ^ k as a fixed-point number of `exp2Prec` fraction bits: bit k - 1 - j of F takes the
factor 2 ^ (2 ^ −(j + 1)), each factor the square root of the one before. -/
def exp2Frac (F : Nat) (k : Nat) : Nat :=
  let one := 2 ^ exp2Prec
  ((List.range k).foldl (fun (p : Nat × Nat) j =>
    let c := isqrt (p.1 * one)
    (c, if bits F (k - 1 - j) 1 = 1 then p.2 * c / one else p.2)) (2 * one, one)).2

/-- EXP2 (R156, Table 05.8): the exact value correctly rounded. Operands below 2 ^ −32 in magnitude round to 1.0. -/
def f32Exp2 (x : F32) : F32 :=
  match decF32 x with
  | .nan => nanF32
  | .inf n => if n then 0 else x
  | .fin n m e =>
    if m = 0 then f32OfNat 1
    else if !n && leMag 128 0 m e then encF32 (.inf false)
    else if n && cmpMag m e 150 0 == .gt then 0
    else if cmpMag m e 1 (-32) == .lt then f32OfNat 1
    else
      let k := (-(min e 0)).toNat
      let z := atExp n m e (-(k : Int))
      let i := z.fdiv (2 ^ k : Nat)
      let F := (z - i * (2 ^ k : Nat)).toNat
      f32Round false (exp2Frac F k) (i - (exp2Prec : Int)) (F != 0)

/-- Fraction bits of LOG2's result and of its working precision. -/
def log2Bits : Nat := 104
def log2Prec : Nat := 240

/-- The first `log2Bits` bits of log2 of y, for y in [1, 2) at `log2Prec` fraction bits: repeated squaring. -/
def log2Frac (y : Nat) : Nat :=
  let one := 2 ^ log2Prec
  ((List.range log2Bits).foldl (fun (p : Nat × Nat) _ =>
    let s := p.1 * p.1 / one
    if 2 * one ≤ s then (s / 2, 2 * p.2 + 1) else (s, 2 * p.2)) (y, 0)).2

/-- LOG2 (R156, Table 05.8). -/
def f32Log2 (x : F32) : F32 :=
  match decF32 x with
  | .nan => nanF32
  | .inf n => if n then nanF32 else x
  | .fin n m e =>
    if m = 0 then encF32 (.inf true)
    else if n then nanF32
    else
      let l := Nat.log2 m
      let E := (l : Int) + e
      if m = 2 ^ l then encF32 (.fin (E < 0) E.natAbs 0)
      else
        let L := log2Frac (m <<< (log2Prec - l))
        let z : Int := E * (2 ^ log2Bits : Nat) + (L : Int)
        if z < 0 then f32Round true (z.natAbs - 1) (-(log2Bits : Int)) true
        else f32Round false z.natAbs (-(log2Bits : Int)) true

/-- RECIP (R156, Table 05.8). -/
def f32Recip (x : F32) : F32 :=
  match decF32 x with
  | .nan => nanF32
  | .inf n => encF32 (.fin n 0 0)
  | .fin n m e =>
    if m = 0 then encF32 (.inf n)
    else
      let k := Nat.log2 m + 40
      f32Round n (2 ^ k / m) (-(k : Int) - e) (2 ^ k % m != 0)

/-- RSQRT (R156, Table 05.8). -/
def f32Rsqrt (x : F32) : F32 :=
  match decF32 x with
  | .nan => nanF32
  | .inf n => if n then nanF32 else 0
  | .fin n m e =>
    if m = 0 then encF32 (.inf n)
    else if n then nanF32
    else
      let m' := if e % 2 = 0 then m else 2 * m
      let h := if e % 2 = 0 then e / 2 else (e - 1) / 2
      let k := Nat.log2 m' + 40
      let r := isqrt (2 ^ (2 * k) / m')
      f32Round false r (-(k : Int) - h) (r * r * m' != 2 ^ (2 * k))

end Sys2Proof.Machine
end

