-- ==== Sys2Proof/Machine/Flight.lean ====
section
/-! DEFINITION. Work in flight as plain data: what the arrays, the matrix-vector unit, the vector engine, the stream engines and
the check-value unit hold between two cycles of their core. -/

namespace Sys2Proof.Machine

/-- A byte as a reader sees it; none is a poisoned byte, which reads as zero. -/
abbrev PByte := Option Byte

/-! ### The present cycle (R208, R209, R274) -/

/-- A scratch access of a cycle. `agent` is the code of Table 06.7, plus 16 × the engine or the write path within it. -/
structure Access where
  agent : Nat
  write : Bool
  addr : Nat                -- device address
  n : Nat
  op : Nat                  -- the accessing operation, by its own number within its unit
  part : Nat                -- the lane-vector or row that it works on
  deriving DecidableEq, Repr

/-- What a cycle has done so far: its accesses, the winners of contested banks (bank, rank), the writes that land at its end, and
the vector engine's write paths taken (R161). -/
structure Now where
  log : List Access
  wins : List (Nat × Nat)
  queue : List (Nat × List PByte)
  pathD : Bool
  pathR : Bool
  op : Nat                  -- the operation at work, by its own number within its unit
  part : Nat                -- and its lane-vector or row
  deriving DecidableEq, Repr

def Now.start : Now := { log := [], wins := [], queue := [], pathD := false, pathR := false, op := 0, part := 0 }

/-! ### Streams and scans -/

/-- A stream as its descriptor gives it (Table 06.8, R211). -/
structure Stream where
  far : Nat
  near : Nat
  out : Bool
  cache : Bool
  bytes : Nat
  n1 : Nat
  n2 : Nat
  fs1 : Int
  fs2 : Int
  ns1 : Int
  ns2 : Int
  base : Nat
  step : Nat
  post : Nat
  ahead : Nat
  deriving DecidableEq, Repr

/-- A stream under way: rows whose far requests or sends have all issued, lines of the next one requested so far, landed bytes
by row, the bytes of the present OUT row, rows moved. -/
structure StrFl where
  s : Stream
  slot : Nat                -- the stream slot that issued it
  loose : Bool
  requested : Nat
  lines : Nat
  landed : List (Nat × List PByte)
  waits : List (Nat × Nat × Nat)  -- requested of a stack that is closed: row, address and length of the piece (R203)
  sent : List PByte
  moved : Nat
  unmapped : Bool           -- its first unmapped address is already reported (R39)
  deriving DecidableEq, Repr

/-- Window data that a stream engine writes to scratch in a cycle. -/
structure Land where
  cycle : Nat
  engine : Nat
  addr : Nat                -- device address
  bytes : List PByte
  deriving DecidableEq, Repr

/-- A scan under way (R225, R226). -/
structure Scan where
  t0 : Nat
  a : Nat
  n : Nat                   -- bytes
  poly : Nat
  final : Bool
  own : Bool
  res : Option Nat          -- where the result goes
  st : Nat                  -- running state
  bad : Bool
  pos : Nat                 -- bytes read
  last : Nat
  deriving DecidableEq, Repr

/-! ### Arrays -/

/-- A partial sum with the cause charged so far (code, 0 for none) and the reduction index that cause names. -/
structure Acc where
  v : A40
  cause : Nat
  k : Nat
  deriving DecidableEq, Repr

/-- A tile column: its decoded weights and whether a byte of it was poisoned. -/
structure Column where
  w : List LogVal
  bad : Bool
  deriving DecidableEq, Repr

/-- The outputs of one input vector in one berth. -/
structure VecOut where
  x : List LogVal
  xBad : Bool
  out : List Acc
  bad : List Bool
  deriving DecidableEq, Repr

/-- What a pass holds fixed. -/
structure Pass where
  core : Nat
  t : Nat                   -- cycle of pass cycle 0
  seq : Nat
  v : Nat
  split : Nat
  p : Nat
  wf : Fmt
  xf : Fmt
  bad : Bool                -- a reserved operand format (R63)
  d : Nat                   -- weight descriptor
  deriving DecidableEq, Repr

/-- A berth in use: logical array, berth, its descriptor as a number. -/
structure Berth where
  array : Nat
  b : Nat
  d : Nat
  deriving DecidableEq, Repr

/-- What becomes of a berth's block at its verdict: it commits, it is withheld, or it waits for its adjudication. -/
inductive Fate where
  | commit | withhold | wait
  deriving DecidableEq, Repr

/-- A pass under way: its tile so far, the latest input vector of each berth, the outputs of each vector not yet committed by
berth, and the fate of each berth in the blocks judged. -/
structure PassFl where
  p : Pass
  bs : List Berth
  tiles : List (List Column)  -- per berth of the split
  held : List (List (LogVal × Bool))
  outs : List (Nat × List VecOut)
  fates : List (Nat × List Fate)
  charges : List (Nat × Nat × Bool × Nat)  -- R63 and R88: array, berth, k_valid, column
  deriving DecidableEq, Repr

/-! ### Matrix-vector unit -/

/-- A MATVEC as its descriptor gives it (Table 04.4). -/
structure Matvec where
  d : Nat
  wf : Fmt
  xf : Fmt
  bad : Bool
  slots : List Nat
  deriving DecidableEq, Repr

/-- A vector held in a slot, with its poison, as far as it was taken (R138, R200). -/
structure Resident where
  slot : Nat
  x : List LogVal
  bad : Bool
  lost : Option Nat         -- first segment in which a word of it had a double-bit error
  deriving DecidableEq, Repr

/-- What the checks and sums of one row group give. -/
structure GroupOut where
  outs : List (List Acc)    -- by active slot, 128 outputs
  imageBad : Bool
  stale : List Nat          -- segments whose CRC differs
  c1 : List (Nat × Nat)     -- failing segment and slot
  c3 : List (Nat × Nat)
  lost : List (Nat × Nat)   -- segment and slot of a double-bit error in the vector store
  deriving DecidableEq, Repr

/-- A row group whose products are taken: its verdict's and its commit's cycle, and whether the verdict withholds it. -/
structure RowGroup where
  g : Nat
  verdict : Nat
  commit : Nat
  out : GroupOut
  bad : List Bool           -- by active slot: its vector was poisoned
  held : Bool
  deriving DecidableEq, Repr

/-- A MATVEC or BUILD under way: row groups to work through, the bytes and vectors of the present one, the row groups that
await their commit. -/
structure MvuFl where
  build : Bool
  m : Matvec
  t0 : Nat
  groups : Nat
  starts : List Nat         -- commit cycle of each row group's first slot
  seq : Nat
  len : Nat                 -- bytes of the image
  reader : Nat              -- the engine that carries the image
  writer : Option Nat       -- a BUILD's writing engine
  fed : Nat                 -- bytes of the image requested so far
  buf : List PByte          -- landed and not yet taken; what a window image has requested stands as zeros
  ahead : Nat               -- end of the harbour prefetches sent (R214)
  f : Option Fmt
  bytes : List PByte
  xs : List Resident
  ready : List RowGroup
  deriving DecidableEq, Repr

/-- A LOAD_VEC under way. -/
structure LdvFl where
  t0 : Nat
  slot : Nat
  xa : Nat
  n : Nat
  sa : Nat
  ns : Nat
  deriving DecidableEq, Repr

/-! ### Vector engine -/

/-- A lane operand: value, tags, and the cause its read charges (0 none, 8 none but it saturated: R77). -/
structure Opnd where
  val : F32
  mask : Bool := false
  poison : Bool := false
  cause : Nat := 0
  deriving DecidableEq, Repr

/-- A tensor record (Table 05.4). -/
structure TRec where
  addr : Nat
  saddr : Nat
  fmt : Nat
  rnd : Rnd
  layer : Nat
  layerEn : Bool
  en : Bool
  gstream : Nat
  s1 : Int
  s2 : Int
  s3 : Int
  deriving DecidableEq, Repr

/-- The descriptor's header (Table 05.3) over the whole descriptor as a number. -/
structure VDesc where
  d : Nat
  deriving DecidableEq, Repr

/-- A stage word's fields (Table 05.5). -/
structure Stg where
  kind : Nat
  func : Nat
  selB : Nat
  selC : Nat
  wreg : Nat
  wen : Bool
  fill : Bool
  deriving DecidableEq, Repr

/-- A reduction's result so far: value with position, poison, whether every value was finite and untagged. -/
structure RedRes where
  v : Option (F32 × Nat)
  poison : Bool
  clean : Bool
  deriving DecidableEq, Repr

/-- A lane-vector in flight. -/
structure LvSt where
  n : Nat
  a : List Opnd             -- tensor A's lanes
  b : List (Nat × Nat × List Opnd)  -- tensor B reads by stage and selector
  x : List Opnd             -- latest stage's output
  charged : List Nat
  ranged : Bool             -- PERMUTE_RANGE already counted
  ls : Int                  -- layer scale its conversion began with
  deriving DecidableEq, Repr

/-- What a CHAIN holds fixed. -/
structure VOp where
  core : Nat
  t0 : Nat
  v : VDesc
  ws : List Stg
  lats : List Nat
  cum : List Nat            -- Σ of latencies before stage j
  ta : TRec
  tb : TRec
  td : TRec
  tr : TRec
  seq : Nat
  deriving DecidableEq, Repr

/-- A CHAIN under way: lane-vectors to run (all, less after PREEMPT), those in flight, reductions so far by lane-vector. -/
structure Chain where
  o : VOp
  n : Nat
  fl : List LvSt
  red : List (Nat × RedRes)
  deriving DecidableEq, Repr

/-- A composite: the operation's cycles and records. -/
structure Comp where
  core : Nat
  t0 : Nat
  seq : Nat
  v : VDesc
  ta : TRec
  tb : TRec
  td : TRec
  tr : TRec
  tc : TRec
  e : Nat                   -- EXP2 latency
  lg : Nat                  -- LOG2 latency
  lr : F32                  -- lr_eff
  deriving DecidableEq, Repr

/-- A position of a soft maximum row: t = MUL (x, β), whether masked, whether poisoned. -/
structure Pos where
  t : F32
  masked : Bool
  poison : Bool
  deriving DecidableEq, Repr

/-- What a lane gives a conversion. -/
inductive Src where
  | val (v : Val)
  | off                     -- inactive lane
  | bad                     -- poisoned
  deriving DecidableEq, Repr

/-- A write that a composite has computed. Paths: 0 tensor D, 1 tensor R, 2 neither. -/
inductive VData where
  | conv (t : TRec) (f : Fmt) (e : Int) (vs : List Src)
  | raw (addr : Nat) (bytes : List PByte)
  deriving DecidableEq, Repr

structure VOut where
  cycle : Nat
  path : Nat
  n : Nat                   -- its lane-vector
  data : VData
  ls : Int                  -- layer scale when the conversion began
  deriving DecidableEq, Repr

/-- How a soft maximum row is treated (Tables 05.13, 05.16, 05.17). -/
inductive RowCase where
  | open | nan | inf | empty
  deriving DecidableEq, Repr

/-- A soft maximum row under way. -/
structure RowFl where
  row : Nat
  s : Nat                   -- cycle it starts in
  record : List PByte       -- its state record
  ps : List (List Pos)      -- positions of the first reading
  kind : RowCase
  k : Nat                   -- unmasked +∞ positions
  m : F32
  es : List (List F32)      -- exponentials of the second reading
  sum : F32
  bad : Bool                -- a poisoned value enters its reductions
  deriving DecidableEq, Repr

/-- A composite under way: rows or lane-vectors to run, rows in flight, writes to come, OPT_CHECK's maximum and failure, and
bytes read for later. -/
structure CompFl where
  o : Comp
  n : Nat
  rows : List RowFl
  outs : List VOut
  gmax : F32
  fail : Bool
  buf : List PByte
  deriving DecidableEq, Repr

/-- A vector operation whose descriptor is being read: op cycle 0, the descriptor's index, and what the first cycle read (R160). -/
structure VDescFl where
  t0 : Nat
  idx : Nat
  loose : Bool
  first : List PByte
  deriving DecidableEq, Repr

/-- A vector operation under way. -/
inductive VFlight where
  | chain (h : Chain)
  | comp (f : CompFl)
  deriving DecidableEq, Repr

end Sys2Proof.Machine
end

