-- ==== Sys2Proof/Machine/OuterCode.lean ====
section
/-! DEFINITION. The codes of a memory line: the Reed–Solomon outer code over GF(2^8) with its poison pattern and decode order (R194, R195),
and the inner words of a DRAM die (R192). -/

namespace Sys2Proof.Machine

/-! ### GF(2^8), field polynomial x^8 + x^4 + x^3 + x^2 + 1 (R194) -/

/-- A number times α. -/
def gfX (a : Nat) : Nat := if 128 ≤ a then (2 * a) % 256 ^^^ 0x1D else 2 * a

/-- The product of two field elements: bit by bit of `b`, `fuel` bits. -/
def gfMulAux : Nat → Nat → Nat → Nat
  | 0, _, _ => 0
  | n + 1, a, b => (if b % 2 = 1 then a else 0) ^^^ gfMulAux n (gfX a) (b / 2)
def gfMul (a b : Nat) : Nat := gfMulAux 8 a b

/-- a to the power of a number of `fuel` bits. -/
def gfPowAux : Nat → Nat → Nat → Nat
  | 0, _, _ => 1
  | n + 1, a, k => gfMul (if k % 2 = 1 then a else 1) (gfPowAux n (gfMul a a) (k / 2))
/-- α^k. -/
def gfAlpha (k : Nat) : Nat := gfPowAux 8 2 (k % 255)
/-- The inverse of a field element, 0 for 0. -/
def gfInv (a : Nat) : Nat := gfPowAux 8 a 254

/-- The value of a polynomial, lowest coefficient first. -/
def polyAt (p : List Nat) (x : Nat) : Nat := p.foldr (fun c r => c ^^^ gfMul x r) 0
def polyAdd (p q : List Nat) : List Nat :=
  tabulate (max p.length q.length) fun i => p.getD i 0 ^^^ q.getD i 0
def polyScale (k : Nat) (p : List Nat) : List Nat := p.map (gfMul k)
def polyMul (p q : List Nat) : List Nat := p.foldr (fun c r => polyAdd (polyScale c q) (0 :: r)) []

/-! ### The code (R194) -/

/-- g(x) = (x − α^0)(x − α^1)…(x − α^15), lowest coefficient first. -/
def generator : List Nat := (List.range 16).foldl (fun g i => polyMul g [gfAlpha i, 1]) [1]

/-- One step of the division of a line's polynomial by g(x): the remainder so far, highest coefficient first, takes the next data
symbol. -/
def checkStep (r : List Nat) (d : Nat) : List Nat :=
  let f := d ^^^ r.headD 0
  tabulate 16 fun i => r.getD (i + 1) 0 ^^^ gfMul f (generator.getD (15 - i) 0)

/-- The 16 check bytes of a line of 128 data bytes: the coefficients of d(x) × x^16 mod g(x), highest first. -/
def checkBytes (data : List Byte) : List Nat :=
  data.foldl (fun r b => checkStep r b.toNat) (List.replicate 16 0)

/-- The poison pattern P[i], XORed into check byte i of a poisoned line (R195). -/
def poisonByte (i : Nat) : Nat := 0xC3 ^^^ (i * 0x11)

/-- Wrong symbols of a line: symbol (0 to 127 data, 128 + i check byte i, in a DRAM die also 144 + w for the inner check bits of word w) and
the bits of it that are wrong, by symbol. -/
abbrev Errors := List (Nat × Nat)

/-- Turn further bits of a symbol. -/
def Errors.flip (e : Errors) (s m : Nat) : Errors :=
  let m' := m ^^^ ((e.find? fun x => x.1 = s).map Prod.snd).getD 0
  let rest := e.filter fun x => x.1 != s
  if m' = 0 then rest else (rest.filter fun x => x.1 < s) ++ (s, m') :: rest.filter fun x => s < x.1

/-- The error with the poison pattern added. -/
def Errors.poison (e : Errors) : Errors := (List.range 16).foldl (fun e i => e.flip (128 + i) (poisonByte i)) e

/-- The 16 syndromes of an error: the word's polynomial at α^0 to α^15, data byte b the coefficient of x^(143 − b). -/
def syndromes (e : Errors) : List Nat :=
  tabulate 16 fun j => e.foldl (fun s x => s ^^^ gfMul x.2 (gfAlpha (j * (143 - x.1)))) 0

/-! ### Decoding with at most `t` symbol errors -/

/-- The state of the search for the error locator: locator, previous locator, its length, steps since, last discrepancy. -/
structure Locator where
  c : List Nat
  b : List Nat
  l : Nat
  m : Nat
  d : Nat
  deriving DecidableEq, Repr

/-- One step of the search over the syndromes (Berlekamp and Massey). -/
def Locator.step (syn : List Nat) (q : Locator) (n : Nat) : Locator :=
  let d := (List.range (q.l + 1)).foldl (fun s i => s ^^^ gfMul (q.c.getD i 0) (syn.getD (n - i) 0)) 0
  if d = 0 then { q with m := q.m + 1 }
  else
    let c := polyAdd q.c (List.replicate q.m 0 ++ polyScale (gfMul d (gfInv q.d)) q.b)
    if 2 * q.l ≤ n then { c := c, b := q.c, l := n + 1 - q.l, m := 1, d := d } else { q with c := c, m := q.m + 1 }

def locate (syn : List Nat) : Locator := (List.range 16).foldl (Locator.step syn) { c := [1], b := [1], l := 0, m := 1, d := 1 }

/-- The error of at most `t` symbols with given syndromes, if there is one: the roots of the locator are its places, the key equation
gives its values, and it must have those syndromes. -/
def solve (syn : List Nat) (t : Nat) : Option Errors :=
  let q := locate syn
  let omega := (polyMul syn q.c).take 16
  let deriv := tabulate q.c.length fun i => if i % 2 = 0 then q.c.getD (i + 1) 0 else 0
  let e : Errors := (List.range 144).filterMap fun s =>
    let x := gfAlpha (143 - s)
    let y := gfInv x
    if polyAt q.c y = 0 then some (s, gfMul x (gfMul (polyAt omega y) (gfInv (polyAt deriv y)))) else none
  if q.l ≤ t && e.length = q.l && syndromes e == syn then some e else none

/-- How a unit decodes. -/
inductive Code where
  | good | corrected | stored | storedErr | bad
  deriving DecidableEq, Repr

/-- Whether a unit delivers data. -/
def Code.delivers : Code → Bool
  | .good => true
  | .corrected => true
  | _ => false

/-- The wrong bits of symbol `s` as a byte. -/
def Errors.byte (e : Errors) (s : Nat) : Byte := BitVec.ofNat 8 (((e.find? fun x => x.1 = s).map Prod.snd).getD 0)

/-- Two errors together. -/
def Errors.add (e f : Errors) : Errors := f.foldl (fun e x => e.flip x.1 x.2) e

/-- The decode of a word whose error is `r`, by the first row of Table 06.2 that matches; with it what the delivered line still has
wrong. -/
def decodeWord (r : Errors) (t : Nat) : Code × Errors :=
  let zero := List.replicate 16 0
  if syndromes r == zero then (.good, r)
  else if syndromes r.poison == zero then (.stored, [])
  else match solve (syndromes r) t with
    | some f => (.corrected, r.add f)
    | none => if (solve (syndromes r.poison) 6).isSome then (.storedErr, []) else (.bad, [])

/-- The decode of a line (Table 06.2) from the error in it and from whether it was stored poisoned. Codewords differ in 17 symbols, and
P lies at distance 13 from every codeword, so up to 6 wrong symbols the number alone decides; and a line with more than `t` but no
more than 16 − t wrong symbols delivers nothing (R194 to R196). -/
def decodeLine (e : Errors) (poisoned : Bool) (t : Nat) : Code × Errors :=
  let n := e.length
  if poisoned then (if n = 0 then (.stored, []) else if n ≤ 6 then (.storedErr, []) else decodeWord e.poison t)
  else if n = 0 then (.good, [])
  else if n ≤ t then (.corrected, [])
  else if n ≤ 6 then (.bad, [])
  else
    let r := decodeWord e t
    if n ≤ 16 - t && r.1.delivers then (.bad, []) else r

/-! ### The inner words of a DRAM die (R192) -/

/-- Whether a symbol is one of the 144 that the outer code covers. -/
def outerSymbol (s : Nat) : Bool := decide (s < 144)

/-- The wrong bits of inner word `w`: bit 8i + k is bit k of symbol 16w + i, bits 128 to 135 its inner check bits. -/
def innerBits (e : Errors) (w : Nat) : Nat :=
  (e.filter fun x => outerSymbol x.1 && x.1 / 16 = w).foldl (fun s x => s + x.2 * 2 ^ (8 * (x.1 % 16))) 0 +
    (e.filter fun x => x.1 = 144 + w).foldl (fun s x => s + x.2 * 2 ^ 128) 0

/-- Bits set in a number of `n` bits. -/
def ones (n x : Nat) : Nat := ((List.range n).filter fun i => x.testBit i).length

/-- What the die turns in an inner word on a read: its one wrong bit; with more wrong, the bit that the inner code miscorrects, if any
(free: the code's check matrix is not given; log entry 41, DEDUCED). -/
def innerTurns (w : Nat) : Option Nat :=
  match ones 136 w with
  | 0 => none
  | 1 => (List.range 136).find? w.testBit
  | _ => if Config.innerTurn w % 137 < 136 then some (Config.innerTurn w % 137) else none

/-- The corrections that the die reports on a read of a line. -/
def innerFixes (e : Errors) : Nat := ((List.range 9).filter fun w => (innerTurns (innerBits e w)).isSome).length

/-- The error of a DRAM line as it leaves the die, without the inner check bits. -/
def innerRead (e : Errors) : Errors :=
  ((List.range 9).foldl (fun r w => match innerTurns (innerBits e w) with
    | some b => if b < 128 then r.flip (16 * w + b / 8) (2 ^ (b % 8)) else r
    | none => r) e).filter fun x => outerSymbol x.1

end Sys2Proof.Machine
end

