-- ==== Sys2Proof/Machine/RegMap.lean ====
section
/-! DEFINITION. The register map: addresses (R41, R42), which indices each block defines (R468, Tables 14.2 to 14.6), and
for each register which bits are RW, W1C-S, WO, RO-L or set from the image, and its value at READY (R10, R15). Bits in no
list are RO or reserved. -/

namespace Sys2Proof.Machine

/-- Register address: die in [31:26], block in [25:20], index in [19:3], [2:0] zero (R41, Table 01.7). -/
def ra (die block index : Nat) : Nat := die * 2 ^ 26 + block * 2 ^ 20 + index * 8

def raDie (a : Nat) : Nat := bits a 26 6
def raBlock (a : Nat) : Nat := bits a 20 6
def raIndex (a : Nat) : Nat := bits a 3 17

/-- The kind of a die by its number (R18, Table 01.1; codes of Table 12.3). -/
def dieType (d : Nat) : Nat :=
  if d < 20 then 0 else if d < 36 then 1 else if d = 36 then 2 else if d = 37 then 3 else 4

/-- Whether a die carries a block (R42, Table 01.8). -/
def blockPresent (die block : Nat) : Bool :=
  if die < 20 then 1 ≤ block && block ≤ 0x0E
  else if die < 36 then block == 0x0E || block == 0x10 || block == 0x11 || block == 0x12
  else if die = 36 then block == 0x0E || block == 0x18 || block == 0x19
  else if die = 37 then block == 0x0E || block == 0x1C || block == 0x1D || block == 0x1E
  else if die < 40 then block == 0x0E || block == 0x20 || block == 0x21
  else false

/-! Addresses of the blocks' registers; `c` is a logical core (R24), `s` a sett, `h` a harbour die. -/
namespace R
def arr (c i : Nat) : Nat := ra (c / 2) (1 + c % 2) i
def mvu (c i : Nat) : Nat := ra (c / 2) (3 + c % 2) i
def vec (c i : Nat) : Nat := ra (c / 2) (5 + c % 2) i
def str (c i : Nat) : Nat := ra (c / 2) (7 + c % 2) i
def chk (c i : Nat) : Nat := ra (c / 2) (9 + c % 2) i
def rng (s i : Nat) : Nat := ra s 0x0B i
def mem (s i : Nat) : Nat := ra s 0x0C i
def int (s i : Nat) : Nat := ra s 0x0D i
def tidl (d i : Nat) : Nat := ra d 0x0E i
def hbc (h i : Nat) : Nat := ra h 0x10 i
def lnk (h i : Nat) : Nat := ra h 0x11 i
def red (h i : Nat) : Nat := ra h 0x12 i
def qua (i : Nat) : Nat := ra 36 0x18 i
def seq (i : Nat) : Nat := ra 36 0x19 i
def plt (i : Nat) : Nat := ra 37 0x1C i
def fus (i : Nat) : Nat := ra 37 0x1D i
def sec (i : Nat) : Nat := ra 37 0x1E i
def tid (i : Nat) : Nat := ra 38 0x20 i
def pwr (i : Nat) : Nat := ra 38 0x21 i

def arrPassStatus (c : Nat) : Nat := arr c 0
def arrEvents (c : Nat) : Nat := arr c 1
def arrVerdict (c a : Nat) : Nat := arr c (0x10 + a)
def arrLoc (c a : Nat) : Nat := arr c (0x14 + a)
def arrBlocks (c a : Nat) : Nat := arr c (0x18 + a)
def arrFF (c a b : Nat) : Nat := arr c (0x20 + 4 * a + b)
def mvuOpStatus (c : Nat) : Nat := mvu c 0
def mvuEvents (c : Nat) : Nat := mvu c 1
def mvuCheckRec (c : Nat) : Nat := mvu c 0x10
def mvuFF (c : Nat) : Nat := mvu c 0x11
def mvuRowGroups (c : Nat) : Nat := mvu c 0x12
def vecOpStatus (c : Nat) : Nat := vec c 0
def vecEvents (c : Nat) : Nat := vec c 1
def vecNfStep (c cause : Nat) : Nat := vec c (0x10 + cause - 1)
def vecNfTotal (c cause : Nat) : Nat := vec c (0x18 + cause - 1)
def vecFF (c cause : Nat) : Nat := vec c (0x20 + cause - 1)
def vecPermuteRec (c : Nat) : Nat := vec c 0x28
def vecEmptyRec (c : Nat) : Nat := vec c 0x29
def vecFaultRec (c : Nat) : Nat := vec c 0x2A
def vecStateRec (c : Nat) : Nat := vec c 0x2B
def vecGbound (c : Nat) : Nat := vec c 0x30
def vecSpike (c : Nat) : Nat := vec c 0x32
def vecLoop (c : Nat) : Nat := vec c 0x40
def vecLS (c j : Nat) : Nat := vec c (0x100 + j)
def strEngine (c e : Nat) : Nat := str c e
def strEvents (c : Nat) : Nat := str c 4
def strLateRec (c : Nat) : Nat := str c 0x10
def strConflictRec (c : Nat) : Nat := str c 0x11
def strLateCount (c : Nat) : Nat := str c 0x12
def chkStatus (c : Nat) : Nat := chk c 0
def chkResult (c : Nat) : Nat := chk c 1
def chkState (c : Nat) : Nat := chk c 2
def chkEvents (c : Nat) : Nat := chk c 3
def chkStateLoad (c : Nat) : Nat := chk c 6
def rngSeedLo (s : Nat) : Nat := rng s 0
def rngSeedHi (s : Nat) : Nat := rng s 1
def rngIdent (s : Nat) : Nat := rng s 2
def rngProbeStep (s : Nat) : Nat := rng s 3
def rngProbeLo (s : Nat) : Nat := rng s 4
def rngProbeHi (s : Nat) : Nat := rng s 5
def rngDraws (c : Nat) : Nat := rng (c / 2) (8 + c % 2)
def memCtrl (s : Nat) : Nat := mem s 0
def memStatus (s : Nat) : Nat := mem s 1
def memBadger (s : Nat) : Nat := mem s 2
def memEvents (s : Nat) : Nat := mem s 3
def memEccRec (s : Nat) : Nat := mem s 0x10
def memCacheRange (s r : Nat) : Nat := mem s (0x20 + r)
def intStatus (s : Nat) : Nat := int s 0
def intEvents (s : Nat) : Nat := int s 1
def intNfFirst (s : Nat) : Nat := int s 0x10
def intFaultRec (s : Nat) : Nat := int s 0x11
def intErrRec (s : Nat) : Nat := int s 0x12
def intMoorRec (s : Nat) : Nat := int s 0x13
def intCorrected (s : Nat) : Nat := int s 0x14
def intAdjPtr (s : Nat) : Nat := int s 0x18
def intAdjLog (s i : Nat) : Nat := int s (0x20 + i)
def tidCount (d : Nat) : Nat := tidl d 0
def tidLocalEdges (d : Nat) : Nat := tidl d 1
def tidCycle (c : Nat) : Nat := tidl (c / 2) (0x10 + c % 2)
def tidEdges (c : Nat) : Nat := tidl (c / 2) (0x12 + c % 2)
def tidEbbEdges (c : Nat) : Nat := tidl (c / 2) (0x14 + c % 2)
def tidHoldEdges (c : Nat) : Nat := tidl (c / 2) (0x16 + c % 2)
def tidIssue (c : Nat) : Nat := tidl (c / 2) (0x18 + c % 2)
def tidLoop (c l : Nat) : Nat := tidl (c / 2) (0x58 + 4 * (c % 2) + l)
def tidEbbCause (c k : Nat) : Nat := tidl (c / 2) (0x20 + 8 * (c % 2) + k)
def tidEbbPtr (s : Nat) : Nat := tidl s 0x30
def tidEbbLog (s i : Nat) : Nat := tidl s (0x31 + i)
def tidEq (s : Nat) : Nat := tidl s 0x48
def tidAudit (c : Nat) : Nat := tidl (c / 2) (0x4A + c % 2)
def tidEvents (s : Nat) : Nat := tidl s 0x4C
def hbcWays (h : Nat) : Nat := hbc h 0
def hbcEvents (h : Nat) : Nat := hbc h 1
def hbcTraffic (h : Nat) : Nat := hbc h 0x10
def lnkTopo (h : Nat) : Nat := lnk h 0
def lnkEvents (h : Nat) : Nat := lnk h 1
def lnkPort (p : Nat) : Nat := lnk (20 + p / 2) (0x10 + p % 2)
def lnkPortCnt (p : Nat) : Nat := lnk (20 + p / 2) (0x12 + p % 2)
def lnkFailRec (h : Nat) : Nat := lnk h 0x14
def lnkDir (h d : Nat) : Nat := lnk h (0x18 + d)
def lnkCopySrc (h : Nat) : Nat := lnk h 0x20
def lnkCopyDst (h : Nat) : Nat := lnk h 0x21
def lnkCopyCtrl (h : Nat) : Nat := lnk h 0x22
def lnkCopyStatus (h : Nat) : Nat := lnk h 0x23
def lnkAcceptBase (h : Nat) : Nat := lnk h 0x24
def lnkAcceptLimit (h : Nat) : Nat := lnk h 0x25
def lnkSlot (h l s : Nat) : Nat := lnk h (0x100 + 64 * l + s)
def redIdent (h : Nat) : Nat := red h 0
def redStatus (h : Nat) : Nat := red h 1
def redEvents (h : Nat) : Nat := red h 2
def redCargoRec (h : Nat) : Nat := red h 0x10
def redFF (h : Nat) : Nat := red h 0x11
def redTimeout (h : Nat) : Nat := red h 0x12
def redRankmap (h i : Nat) : Nat := red h (0x40 + i)
def redGroup (h g w : Nat) : Nat := red h (0x100 + 4 * g + w)
def redBar (h i : Nat) : Nat := red h (0x200 + i)
def quaPhy : Nat := qua 0
def quaNet : Nat := qua 1
def quaMac : Nat := qua 2
def quaIp4 : Nat := qua 3
def quaIp6Lo : Nat := qua 4
def quaIp6Hi : Nat := qua 5
def quaPeerLo (i : Nat) : Nat := qua (0x10 + 2 * i)
def quaPeerHi (i : Nat) : Nat := qua (0x11 + 2 * i)
def quaFlow (f : Nat) : Nat := qua (0x20 + f)
def quaFlowSeq (f : Nat) : Nat := qua (0x30 + f)
def quaAperDev (a : Nat) : Nat := qua (0x40 + a)
def quaAperHost (a : Nat) : Nat := qua (0x50 + a)
def quaAperLen (a : Nat) : Nat := qua (0x60 + a)
def quaTimers : Nat := qua 0x70
def quaEvents : Nat := qua 0x71
def quaXqRec : Nat := qua 0x80
def quaFec : Nat := qua 0x81
def quaPkts : Nat := qua 0x82
def seqState : Nat := seq 0
def seqPending : Nat := seq 1
def seqProg (s : Nat) : Nat := seq (0x10 + s)
def seqProgHash (s : Nat) : Nat := seq (0x18 + s)
def seqCmdPtr : Nat := seq 0x20
def seqStep (b : Nat) : Nat := seq (0x100 + 0x10 * b)
def seqStepLoad (b : Nat) : Nat := seq (0x101 + 0x10 * b)
def seqDvorBase (b : Nat) : Nat := seq (0x102 + 0x10 * b)
def seqDvorRing (b : Nat) : Nat := seq (0x103 + 0x10 * b)
def seqPackAddr (b : Nat) : Nat := seq (0x104 + 0x10 * b)
def seqStepStatus (b : Nat) : Nat := seq (0x105 + 0x10 * b)
def seqGate (b : Nat) : Nat := seq (0x106 + 0x10 * b)
def seqReplica (b : Nat) : Nat := seq (0x107 + 0x10 * b)
def seqReplicaStat (b : Nat) : Nat := seq (0x108 + 0x10 * b)
def seqBind (b : Nat) : Nat := seq (0x109 + 0x10 * b)
def seqCmdLog (i : Nat) : Nat := seq (0x200 + i)
def seqDrain : Nat := seq 0x300
def seqMoorBase (b r : Nat) : Nat := seq (0x400 + 0x80 * b + 2 * r)
def seqMoorLen (b r : Nat) : Nat := seq (0x401 + 0x80 * b + 2 * r)
def pltBootStatus : Nat := plt 0
def pltImage : Nat := plt 1
def pltImageDigest (w : Nat) : Nat := plt (2 + w)
def pltConfigDigest (w : Nat) : Nat := plt (8 + w)
def pltNonce (w : Nat) : Nat := plt (0x10 + w)
def pltWipe : Nat := plt 0x18
def pltMgmt : Nat := plt 0x20
def pltMgmtDestLo : Nat := plt 0x21
def pltMgmtDestHi : Nat := plt 0x22
def pltMgmtSrcLo : Nat := plt 0x23
def pltMgmtSrcHi : Nat := plt 0x24
def pltMgmtCount : Nat := plt 0x25
def pltEvents : Nat := plt 0x28
def pltBasinCut : Nat := plt 0x40
def secStatus : Nat := sec 0
def secBootId : Nat := sec 1
def secReportKey (w : Nat) : Nat := sec (2 + w)
def secIdkeyEd (w : Nat) : Nat := sec (6 + w)
def tidRefStatus : Nat := tid 0
def tidSyncCtrl : Nat := tid 1
def tidSyncValue : Nat := tid 2
def tidThrottle : Nat := tid 3
def tidBarrierTimeout : Nat := tid 4
def tidBasinTiming (b : Nat) : Nat := tid (8 + b)
def tidBarrier (b : Nat) : Nat := tid (0x10 + b)
def tidPkgEvents : Nat := tid 0x18
def pwrStatus : Nat := pwr 0
def pwrCap : Nat := pwr 1
def pwrEvents : Nat := pwr 2
def pwrTripRec : Nat := pwr 0x10
def pwrTemp (i : Nat) : Nat := pwr (0x18 + i)
end R

/-- What the map says of one register: its RW, W1C-S, WO, RO-L and image fields as (low bit, width), and its value at
READY. -/
structure RegInfo where
  rw : List (Nat × Nat) := []
  w1c : List (Nat × Nat) := []
  wo : List (Nat × Nat) := []
  rol : List (Nat × Nat) := []
  image : List (Nat × Nat) := []
  reset : Nat := 0
  deriving DecidableEq, Repr

/-- The mask of a list of fields. -/
def fieldsMask (l : List (Nat × Nat)) : Word := l.foldl (fun m f => m ||| fmask f.1 f.2) 0

/-- Index `i` lies in the run of `n` indices from `a`. -/
def inRun (i a n : Nat) : Bool := a ≤ i && i < a + n

/-- A register of RO fields only, zero at READY. -/
def riRO : RegInfo := {}
/-- An event register of `n` W1C-S flags. -/
def riEv (n : Nat) : RegInfo := { w1c := [(0, n)] }

/-- Direction code and member of each port (R301, Table 09.1). -/
def portPlace (p : Nat) : Nat × Nat :=
  match [(0, 0), (0, 1), (2, 0), (2, 1), (1, 0), (1, 1), (3, 0), (3, 1), (0, 2), (0, 3), (2, 2), (2, 3), (1, 2), (1, 3),
         (3, 2), (3, 3), (0, 4), (2, 4), (4, 0), (4, 1), (1, 4), (3, 4), (5, 0), (5, 1), (4, 2), (4, 3), (4, 4), (5, 2),
         (5, 3), (5, 4), (6, 0), (6, 1)][p]? with
  | some x => x
  | none => (7, 7)

/-- Blocks ARR (R118, Tables 03.14 to 03.21). -/
def riArr (i : Nat) : Option RegInfo :=
  if i = 0 then some riRO
  else if i = 1 then some (riEv 6)
  else if inRun i 2 6 then some riRO
  else if inRun i 0x10 4 then some { rol := [(0, 27), (28, 28)] }
  else if inRun i 0x14 4 then some { rol := [(0, 3), (4, 7), (12, 9), (24, 2), (27, 3)] }
  else if inRun i 0x18 4 then some riRO
  else if inRun i 0x20 16 then some { rol := [(0, 5), (6, 27), (36, 28)] }
  else none

/-- Blocks MVU (R146). -/
def riMvu (i : Nat) : Option RegInfo :=
  if i = 0 then some riRO
  else if i = 1 then some (riEv 5)
  else if inRun i 2 5 then some riRO
  else if i = 0x10 then some { rol := [(0, 9), (10, 39)] }
  else if i = 0x11 then some { rol := [(0, 5), (6, 58)] }
  else if i = 0x12 then some riRO
  else none

/-- Blocks VEC (R189). -/
def riVec (i : Nat) : Option RegInfo :=
  if i = 0 then some riRO
  else if i = 1 then some (riEv 9)
  else if inRun i 2 9 then some riRO
  else if inRun i 0x10 7 || inRun i 0x18 7 then some riRO
  else if inRun i 0x20 7 then some { rol := [(0, 64)] }
  else if i = 0x28 then some { rol := [(0, 10), (11, 36), (48, 14)] }
  else if i = 0x29 then some { rol := [(0, 40)] }
  else if i = 0x2A then some { rol := [(0, 64)] }
  else if i = 0x2B then some { rol := [(0, 62)] }
  else if i = 0x30 || i = 0x32 || i = 0x40 then some riRO
  else if inRun i 0x100 128 then some riRO
  else none

/-- Blocks STR (R229). -/
def riStr (i : Nat) : Option RegInfo :=
  if inRun i 0 4 then some riRO
  else if i = 4 then some (riEv 6)
  else if inRun i 5 6 then some riRO
  else if i = 0x10 || i = 0x11 then some { rol := [(0, 64)] }
  else if i = 0x12 then some riRO
  else none

/-- Blocks CHK (R229, Tables 06.30 and 06.31). -/
def riChk (i : Nat) : Option RegInfo :=
  if inRun i 0 3 then some riRO
  else if i = 3 then some (riEv 2)
  else if inRun i 4 2 then some riRO
  else if i = 6 then some { wo := [(0, 64)] }
  else none

/-- Block RNG of sett `s` (R300, Tables 08.10 to 08.12). -/
def riRng (s i : Nat) : Option RegInfo :=
  if inRun i 0 2 then some { rw := [(0, 64)] }
  else if i = 2 then some { reset := (2 * s) * 2 ^ 16 + (2 * s + 1) * 2 ^ 22 }
  else if inRun i 3 3 then some { rw := [(0, 64)] }
  else if inRun i 6 4 then some riRO
  else none

/-- Block MEM (R229, Tables 06.22 to 06.27). -/
def riMem (i : Nat) : Option RegInfo :=
  if i = 0 then some { rw := [(0, 8)], reset := 6 + 4 * 8 + 128 }
  else if inRun i 1 2 then some riRO
  else if i = 3 then some (riEv 8)
  else if inRun i 4 8 then some riRO
  else if i = 0x10 then some { rol := [(0, 33)] }
  else if inRun i 0x20 8 then some { rw := [(0, 33)] }
  else none

/-- Block INT (R372). -/
def riInt (i : Nat) : Option RegInfo :=
  if i = 0 then some riRO
  else if i = 1 then some (riEv 10)
  else if inRun i 2 10 then some riRO
  else if i = 0x10 then some { rol := [(0, 8), (9, 55)] }
  else if i = 0x11 then some { rol := [(0, 9), (10, 54)] }
  else if i = 0x12 then some { rol := [(0, 56)] }
  else if i = 0x13 then some { rol := [(0, 11), (12, 48)] }
  else if i = 0x14 || i = 0x18 then some riRO
  else if inRun i 0x20 16 then some riRO
  else none

/-- Block TID local (R276, Table 14.3): all of it on setts, indices 0 and 1 on other dies (R469). -/
def riTidl (die i : Nat) : Option RegInfo :=
  if inRun i 0 2 then some riRO
  else if 20 ≤ die then none
  else if inRun i 0x10 10 then some riRO
  else if inRun i 0x58 8 then some riRO
  else if inRun i 0x21 6 || inRun i 0x29 6 then some riRO
  else if inRun i 0x30 17 then some riRO
  else if i = 0x48 then some riRO
  else if inRun i 0x4A 2 then some { rol := [(0, 64)] }
  else if i = 0x4C then some (riEv 6)
  else if inRun i 0x4D 6 then some riRO
  else none

/-- Block HBC (R229, Tables 06.28 and 06.29). -/
def riHbc (i : Nat) : Option RegInfo :=
  if i = 0 then some { rw := [(0, 5)], reset := 24 * 256 }
  else if i = 1 then some (riEv 3)
  else if inRun i 2 3 || i = 0x10 then some riRO
  else none

/-- Block LNK of harbour die `h` (R344, Tables 09.15 to 09.19). -/
def riLnk (h i : Nat) : Option RegInfo :=
  if i = 0 then some { rw := [(0, 28)] }
  else if i = 1 then some (riEv 6)
  else if inRun i 2 6 then some riRO
  else if inRun i 0x10 2 then
    let pl := portPlace (2 * (h - 20) + (i - 0x10))
    some { reset := 6 + pl.1 * 8 + pl.2 * 64 }
  else if inRun i 0x12 2 then some riRO
  else if i = 0x14 then some { rol := [(0, 64)] }
  else if inRun i 0x18 7 then some { reset := 32 }
  else if i = 0x20 then some { rw := [(0, 48)] }
  else if i = 0x21 then some { rw := [(0, 51)] }
  else if i = 0x22 then some { rw := [(0, 40)], wo := [(40, 1)] }
  else if i = 0x23 then some riRO
  else if inRun i 0x24 2 then some { rw := [(0, 48)] }
  else if inRun i 0x100 448 then some { rw := [(0, 3)] }
  else none

/-- Block RED (R344, Tables 09.20 to 09.23). -/
def riRed (i : Nat) : Option RegInfo :=
  if inRun i 0 2 then some riRO
  else if i = 2 then some (riEv 7)
  else if inRun i 3 7 then some riRO
  else if inRun i 0x10 2 then some { rol := [(0, 64)] }
  else if i = 0x12 then some { rw := [(0, 32)], reset := 50000 }
  else if inRun i 0x40 64 then some riRO
  else if inRun i 0x100 64 then some riRO
  else if inRun i 0x201 63 then some riRO
  else none

/-- Block QUA (R413, Tables 11.15 to 11.20). Image fields: QUA_PHY mode, QUA_NET, the addresses and the peers. The reset
value of max_frame is 9,216 and no address is configured (log entry 3, DESIGN CHOICE). -/
def riQua (i : Nat) : Option RegInfo :=
  if i = 0 then some { rw := [(0, 2)], image := [(0, 2)] }
  else if i = 1 then
    some { rw := [(0, 31), (32, 20)], image := [(0, 31), (48, 4)], reset := 9216 + 47060 * 2 ^ 32 }
  else if i = 2 then some riRO
  else if i = 3 then some { rw := [(0, 32)], image := [(0, 32)] }
  else if inRun i 4 2 then some { rw := [(0, 64)], image := [(0, 64)] }
  else if inRun i 0x10 8 then some { rw := [(0, 64)], image := [(0, 64)] }
  else if inRun i 0x20 32 then some riRO
  else if inRun i 0x40 16 then some { rw := [(0, 48)] }
  else if inRun i 0x50 16 then some { rw := [(0, 64)] }
  else if inRun i 0x60 16 then some { rw := [(0, 45)] }
  else if i = 0x70 then some { rw := [(0, 48)], reset := 200 + 10000 * 2 ^ 16 + 2000 * 2 ^ 32 }
  else if i = 0x71 then some (riEv 10)
  else if inRun i 0x72 10 then some riRO
  else if i = 0x80 then some { rol := [(0, 64)] }
  else if inRun i 0x81 2 then some riRO
  else none

/-- The per-basin registers of block SEQ, index `j` within a basin's run of 16 (Table 14.5). -/
def riSeqBasin (j : Nat) : Option RegInfo :=
  match j with
  | 0 => some riRO
  | 1 => some { wo := [(0, 64)] }
  | 2 => some { rw := [(0, 48)] }
  | 3 => some { rw := [(0, 16)] }
  | 4 => some { rw := [(0, 48)] }
  | 5 => some riRO
  | 6 => some { reset := 0x3C }
  | 7 => some riRO
  | 8 => some riRO
  | 9 => some riRO
  | _ => none

/-- Block SEQ (R413, R300, R372; Table 14.5). -/
def riSeq (i : Nat) : Option RegInfo :=
  if i = 0 then some { reset := 2 + 2 * 256 }
  else if i = 1 then some riRO
  else if inRun i 0x10 16 || i = 0x20 then some riRO
  else if inRun i 0x100 64 then riSeqBasin ((i - 0x100) % 16)
  else if inRun i 0x200 64 || i = 0x300 then some riRO
  else if inRun i 0x400 512 then
    if i % 2 = 0 then some { rw := [(0, 48), (63, 1)] } else some { rw := [(0, 36)] }
  else none

/-- Block PLT (R446, Tables 12.16 to 12.20; PLT_BASIN_CUT Table 01.12). -/
def riPlt (i : Nat) : Option RegInfo :=
  if i = 0 then some { reset := 6 + 0x3F * 2 ^ 16 + 400 * 2 ^ 32 }
  else if i = 1 then some { image := [] }
  else if inRun i 2 12 || inRun i 0x10 4 then some riRO
  else if i = 0x18 then some { reset := 1 + 15000 * 2 ^ 32 }
  else if i = 0x20 then some { image := [(0, 2), (8, 16), (32, 32)] }
  else if inRun i 0x21 4 then some { image := [(0, 64)] }
  else if i = 0x25 then some riRO
  else if i = 0x28 then some (riEv 3)
  else if inRun i 0x29 3 then some riRO
  else if i = 0x40 then some { rw := [(0, 2)], reset := 16 }
  else none

/-- Block FUS (R446, Tables 12.21 and 12.22; FUS_ARRAY_MAP_n Table 01.3). -/
def riFus (i : Nat) : Option RegInfo :=
  if inRun i 0 5 || inRun i 0x10 48 || inRun i 0x40 40 || inRun i 0x80 40 || inRun i 0x100 40 then some riRO else none

/-- Block SEC (R446, Table 12.23). -/
def riSec (i : Nat) : Option RegInfo :=
  if i = 0 then some { reset := 13 } else if inRun i 1 9 then some riRO else none

/-- Block TID of tide die `die` (R276, Tables 07.14, 07.20, 07.21). -/
def riTid (die i : Nat) : Option RegInfo :=
  if i = 0 then some { reset := 1 }
  else if die ≠ 38 then none
  else if i = 1 then some { wo := [(0, 1)] }
  else if i = 2 then some { rw := [(0, 64)] }
  else if i = 3 then some { image := [], reset := 64 * 256 }
  else if i = 4 then some { rw := [(0, 32)], reset := 100000 }
  else if inRun i 8 4 || inRun i 0x10 4 then some riRO
  else if i = 0x18 then some (riEv 3)
  else if inRun i 0x19 3 then some riRO
  else none

/-- Block PWR (R467). -/
def riPwr (i : Nat) : Option RegInfo :=
  if i = 0 then some riRO
  else if i = 1 then some { reset := 3900 }
  else if i = 2 then some (riEv 6)
  else if inRun i 3 6 then some riRO
  else if i = 0x10 then some { rol := [(0, 64)] }
  else if inRun i 0x18 5 then some riRO
  else none

/-- The register at an index of a block of a die, or none where the block defines none (R43, R468). -/
def regInfo (die block index : Nat) : Option RegInfo :=
  if !blockPresent die block then none else
  match block with
  | 0x01 => riArr index
  | 0x02 => riArr index
  | 0x03 => riMvu index
  | 0x04 => riMvu index
  | 0x05 => riVec index
  | 0x06 => riVec index
  | 0x07 => riStr index
  | 0x08 => riStr index
  | 0x09 => riChk index
  | 0x0A => riChk index
  | 0x0B => riRng die index
  | 0x0C => riMem index
  | 0x0D => riInt index
  | 0x0E => riTidl die index
  | 0x10 => riHbc index
  | 0x11 => riLnk die index
  | 0x12 => riRed index
  | 0x18 => riQua index
  | 0x19 => riSeq index
  | 0x1C => riPlt index
  | 0x1D => riFus index
  | 0x1E => riSec index
  | 0x20 => riTid die index
  | 0x21 => riPwr index
  | _ => none

/-- The register an address names: aligned, on a die of the package, in a block the die carries (R43). -/
def regAt (a : Nat) : Option RegInfo :=
  if a % 8 = 0 && a < 2 ^ 32 then regInfo (raDie a) (raBlock a) (raIndex a) else none

/-- The value of a register at READY (R15). -/
def regDefault (a : Nat) : Word :=
  match regAt a with
  | some r => BitVec.ofNat 64 r.reset
  | none => 0

end Sys2Proof.Machine
end

