-- ==== Sys2Proof/Machine/Sparse.lean ====
section
/-! DEFINITION. Sparse plain data: a sorted list of (key, value) pairs, with no entry equal to what an unlisted key reads
as. Memory, the register file, poison marks and the vector registers are all held in this one form. -/

namespace Sys2Proof.Machine

/-- Keys and values in strictly rising order of key, none equal to its default. -/
abbrev Sparse (α : Type) := List (Nat × α)

namespace Sparse

/-- The value at key `k`: the first entry with that key, else the default. -/
def get {α : Type} (d : Nat → α) : Sparse α → Nat → α
  | [], k => d k
  | (k', v) :: t, k => if k' = k then v else get d t k

/-- Without any entry for `k`. -/
def erase {α : Type} (m : Sparse α) (k : Nat) : Sparse α := m.filter fun e => e.1 ≠ k

/-- Insert an entry in front of the first larger key. -/
def insert {α : Type} (k : Nat) (v : α) : Sparse α → Sparse α
  | [] => [(k, v)]
  | (k', v') :: t => if k < k' then (k, v) :: (k', v') :: t else (k', v') :: insert k v t

/-- Write `v` at key `k`; writing the default removes the entry. -/
def set {α : Type} [DecidableEq α] (d : Nat → α) (m : Sparse α) (k : Nat) (v : α) : Sparse α :=
  if v = d k then erase m k else insert k v (erase m k)

/-- Keys strictly rise. -/
def sorted {α : Type} : Sparse α → Bool
  | [] => true
  | [_] => true
  | a :: b :: t => decide (a.1 < b.1) && sorted (b :: t)

/-- The canonical form: keys strictly rising, no entry equal to its default. -/
def wf {α : Type} [DecidableEq α] (d : Nat → α) (m : Sparse α) : Bool :=
  sorted m && m.all fun e => decide (e.2 ≠ d e.1)

end Sparse
end Sys2Proof.Machine
end

