-- ==== Sys2Proof/Machine/State.lean ====
section
/-! DEFINITION. The state of the OQ-2040 as plain data: every register, memory, unit, port, queue and pin the spec gives it,
and the queue of the commands that are waiting. -/

namespace Sys2Proof.Machine

/-- Device state of the package (R396, Table 11.6); READY stands for "basins operate". -/
inductive Dev where
  | off | boot | ready | drain | faulted | wipe
  deriving DecidableEq, Repr

/-- The memory system at rest: bytes by device address (R38), poison marks, and the errors that the codes will find. -/
structure Mem where
  cells : Sparse Byte       -- unlisted bytes read as zero
  poison : Sparse Bool      -- by first address of the unit: 128-byte lines, 8-byte scratch words (Table 06.4)
  lineErr : Sparse Errors   -- bits of a stored line that are wrong at rest, by its device address (R192, R195)
  wordErr : Sparse Nat      -- wrong bits of a scratch word, by its device address (R208)
  deriving DecidableEq, Repr

/-- One lane of a vector register (R147). -/
structure Lane where
  val : F32
  mask : Bool
  poison : Bool
  deriving DecidableEq, Repr

/-- A level of a core's loop stack (R247, TID_LOOP_k_l). -/
structure Loop where
  start : Nat
  iterLeft : Nat
  lenM1 : Nat
  deriving DecidableEq, Repr

/-- What a core holds for (R266, R269, R270). -/
inductive HoldKind where
  | barrier (id budget : Nat)
  | gate
  | tide (tick : Nat)
  deriving DecidableEq, Repr

/-- A hold in progress. -/
structure Hold where
  kind : HoldKind
  start : Nat               -- tick in which this core began to hold
  edges : Nat               -- edges held so far
  barOver : Bool               -- bar_over already recorded
  timedOut : Bool           -- barrier_timeout already recorded
  deriving DecidableEq, Repr

/-- A pending ebb cause: the core that raised it, its code and the edges it stays pending; none while its end is not
known (REMOTE_EBB, Table 07.10). -/
structure Pend where
  core : Nat
  cause : Nat
  left : Option Nat
  deriving DecidableEq, Repr

/-- An ebb in progress (R255 to R261). -/
structure Ebb where
  causes : Nat              -- bit c − 1 for every cause raised
  core : Nat                -- lowest core that raised a cause; 0x3F for REMOTE_EBB alone
  pend : List Pend
  held : Nat
  start : Nat               -- the cycle not entered
  deriving DecidableEq, Repr

/-- A failed block awaiting its adjudication (R105 to R108): what the twin's recomputation and the probes will show. -/
structure Adj where
  array : Nat
  berth : Nat
  block : Nat
  verdict : Nat             -- Table 03.10
  c1 : Bool
  c2 : Bool
  c3 : Bool
  firstVec : Nat
  firstCol : Nat
  locStatus : Nat
  locCol : Nat
  locK : Nat
  outs : List (List Acc)    -- per vector of the block: what the berth's columns commit
  passSeq : Nat
  passStart : Nat
  vectors : Nat             -- V of the pass
  deriving DecidableEq, Repr

/-- A stream engine (R213, STR_ENGINE_e). -/
structure Engine where
  dir : Nat
  issue : Nat
  base : Nat                -- max(dl_base, c)
  step : Nat                -- max(dl_step, c)
  rows : Nat
  width : Nat               -- near cycles of a row (c of R211)
  post : Nat                -- OUT: c − 1 + dl_post
  busyTo : Option Nat       -- last busy cycle
  heldTo : Option Nat       -- last cycle held by the MVU
  seq : Nat
  fl : Option StrFl         -- the stream under way
  deriving DecidableEq, Repr

/-- A bundle in a core's queue (R242): its index, its 512 bits, none where the stream read poisoned, and the wrong bits of its eight
words under SECDED. -/
structure QBundle where
  index : Nat
  data : Option Nat
  errs : List Nat
  deriving DecidableEq, Repr

/-- A vector register write under way: it takes effect at the end of its logical cycle (R160). -/
structure VrWrite where
  cycle : Nat
  stage : Nat
  reg : Nat
  lanes : List Lane
  deriving DecidableEq, Repr

/-- Where a core stands in its schedule (TID_ISSUE_k states IDLE, RUN, PREEMPTED, ENDED). -/
inductive Phase where
  | idle | run | preempted | ended
  deriving DecidableEq, Repr

/-- A logical core: issue, loops, holds and ebbs, the cycles its units are occupied to, and their work in flight. -/
structure Core where
  phase : Phase
  cycle : Nat
  endCycle : Option Nat     -- the cycle in which END issued, which TID_CYCLE_k keeps (R238)
  half : Bool               -- audit mode: the audit edge of the pair has fallen (R238)
  ahead : Nat               -- edges taken before the tick that delivers them has passed
  streamAddr : Nat          -- device address of the bundle stream
  bundles : Nat
  bundle : Nat              -- next bundle index
  queue : List QBundle      -- fetched, oldest first (R242)
  fetch : Nat               -- the fetcher: the next bundle in execution order, its loop levels, bundles ahead of issue
  fetchLoops : List Loop
  fetchAhead : Nat
  fetchEnd : Bool           -- it has met END or a poisoned bundle
  waitLeft : Nat
  loose : Bool
  loops : List Loop         -- innermost first
  hold : Option Hold
  ebb : Option Ebb
  adj : List Adj
  adjRun : List (Adj × Nat)  -- adjudications under way, and the edges each has taken (R107)
  passStart : Option Nat
  passV : Nat
  passSplit : Nat
  passEn : Nat
  mvuIssue : Nat
  mvuKind : Nat             -- 0 none, 1 MATVEC, 2 BUILD
  mvuLastIntake : Option Nat
  mvuRowCycles : Nat        -- intake cycles of a row group
  mvuLastCommit : Option Nat
  mvuActive : Nat
  ldvTo : Option Nat
  vecNext : Nat             -- first cycle in which a vector operation may issue
  vrPend : List VrWrite     -- register writes of issued operations still to take effect
  lsTable : List Nat        -- 1,024 entries as bytes
  engines : List Engine
  chkBusyTo : Option Nat
  sat : Nat                 -- saturation events since launch
  empty : Nat               -- EMPTY_ROW events since launch
  feedCycle : Option Nat    -- cycle of the latest SPIKE_FEED's status write
  passes : List PassFl      -- in issue order
  mvus : List MvuFl
  ldv : Option LdvFl
  vops : List VFlight
  vecDesc : Option VDescFl  -- of the operation in op cycle 0
  firsts : List (Nat × Nat)  -- VEC_FF_c (and 0, VEC_PERMUTE_REC) of this launch: the cause and the charging operation's op cycle 0
  scan : Option Scan
  lands : List Land         -- host-memory window data to write
  lateRow : Option (Nat × Nat)  -- engine and row of the OUT row that the present STREAM_LATE ebb waits for (R215)
  now : Now
  deriving DecidableEq, Repr

/-- What a step of a basin has gathered over its launches (R290, R291, R354). -/
structure StepAcc where
  firstTick : Nat
  opPoint : Nat
  thermal : Nat
  minLevel : Nat
  cap : Nat
  nf : List Nat             -- causes 1 to 7
  sat : Nat
  empty : Nat
  feeds : Nat
  lastLoss : Nat
  gmax : Nat
  cycles : Nat
  ebbs : List (Nat × Nat)   -- causes 1 to 6: ebbs and pending edges
  ebbEdges : Nat
  holdEdges : Nat
  colls : Nat
  cargos : Nat
  crcs : List (Nat × Nat × Nat)  -- launch and issue order, cargo order, CRC of each delivered segment
  replica : Option (Nat × Nat)   -- digest and region
  spike : Bool
  boundBad : Bool
  poison : Bool
  timeout : Bool
  gateBits : Nat            -- the Dvor gate field of the evaluation
  sampled : Bool            -- a launch of the step has begun, and its operating point is sampled (R462)
  deriving DecidableEq, Repr

/-- A cargo contribution that has reached its owner. -/
structure Contrib where
  cargo : Nat
  member : Nat
  payload : List Byte
  wsum : Nat
  wmag : Nat
  poisoned : Bool
  mismatch : Bool
  loose : Bool
  port : Nat                -- ingress port; 0x3F for the owner's own
  deriving DecidableEq, Repr

/-- A cargo that waits to be written until the basin has sent what it overwrites (R323): source member and cargo, payload, causes of its
elements, CRC. -/
structure Delivery where
  s : Nat
  j : Nat
  payload : List Byte
  poisoned : Bool
  loose : Bool
  causes : List Nat
  crc : Nat
  deriving DecidableEq, Repr

/-- A posted collective (R322 to R325). -/
structure Coll where
  kind : Nat
  group : Nat
  peer : Nat
  tag : Nat
  inFmt : Nat
  outFmt : Nat
  rnd : Nat
  n : Nat
  src : Nat                 -- device addresses
  dst : Nat
  seq : Nat
  order : Nat               -- posted before it since launch
  core : Nat
  issue : Nat               -- logical cycle
  deadline : Nat            -- logical cycle
  tick : Nat
  loose : Bool
  contribs : List Contrib   -- received and not yet folded, in arrival order
  granted : List (Nat × Nat)  -- cargo and member already granted
  folded : List Nat         -- owned cargos whose result has left
  delivered : List Nat      -- cargos delivered to this basin; of a SEND, cargos acknowledged (R337)
  held : List Delivery
  launch : Nat              -- the launch that posted it, counted from reset
  sent : List (Nat × Nat)   -- own contributions sent: owner and cargo
  epoch : Nat               -- of the step and launch that posted it
  deriving DecidableEq, Repr

/-- A pod barrier's arrivals at the group's root (R342): id, rank and arrival tick. -/
structure BarArr where
  id : Nat
  rank : Nat
  tick : Nat
  deriving DecidableEq, Repr

/-- A basin: its launch, its step, its barrier and its collectives. -/
structure Basin where
  running : Bool            -- device state RUN (or EBB)
  live : Bool               -- cycle 0 of the launch has begun
  t : Nat                   -- launch tick
  launchNo : Nat            -- launches since reset
  scope : Nat               -- ebb_scope of the bound schedule
  contract : Nat
  preempting : Bool
  trapped : Bool            -- audit mode has latched a hazard of this launch (R274)
  acc : StepAcc
  barLast : Nat             -- tick of the latest arrival
  barRelease : Option Nat   -- release tick once known
  arrivals : List BarArr    -- at a pod barrier's root
  colls : List Coll
  early : List LinkMsg      -- grants and cargos that came before their collective was posted
  posts : List (Nat × Nat)  -- posts since launch, by group or by 256 × (16 + kind) + peer and tag
  posted : Nat              -- collectives posted since launch
  ebbNotice : Nat           -- notice sequence of EBB_START
  remotes : List (Nat × Nat)  -- source rank and sequence of started remote ebbs
  openAt : Option Nat       -- tick from which the opened gate is in force
  discarding : Bool         -- discarded, or to be discarded, when its schedule is complete
  deriving DecidableEq, Repr

/-- A program slot's schedule for one shape, as PROG_LOAD read it (R399). -/
structure Sched where
  cores : Nat
  contract : Nat
  scope : Nat
  streams : List (Nat × Nat × Nat)  -- per core: stream_addr, bundles, offset of the stream within the image
  deriving DecidableEq, Repr

/-- A program slot (R400). -/
structure Prog where
  src : Nat
  len : Nat
  scheds : List Sched
  deriving DecidableEq, Repr

/-- A command that has replied ACCEPTED_PENDING (R394). -/
structure PendCmd where
  h : Hdr
  opcode : Nat
  session : Nat             -- of its flow when it was accepted (R380)
  deriving DecidableEq, Repr

/-- A sequenced packet sent and not yet acknowledged (R383). -/
structure Sent where
  psn : Nat
  type : Nat
  payload : List Byte
  tick : Nat
  retx : Bool
  deriving DecidableEq, Repr

/-- An HREAD without its answer (R386, R388): the near line addresses it fills, in order. -/
structure HRead where
  flow : Nat
  tag : Nat
  len : Nat
  host : Nat
  near : List Nat           -- core scratch device address of each 16-byte piece, in host order
  engine : Nat              -- the stream engine whose row it fills
  win : Nat                 -- its window address
  cache : Bool              -- whether its lines go into the cache ways of their home dies (R221)
  start : Nat               -- basin address at which the row's near bytes start
  first : Nat               -- cycle of the row's first scratch write
  basin : Nat
  core : Nat
  tick : Nat
  deriving DecidableEq, Repr

/-- A Quayline flow (R379 to R384). -/
structure Flow where
  state : Nat               -- 0 CLOSED, 1 OPEN, 2 LOST
  peer : Nat
  peerAddr : Nat
  peerMac : Nat
  hostPort : Nat
  session : Nat
  rxNext : Nat
  txNext : Nat
  acked : Nat               -- latest cumulative acknowledgement received
  rxBuf : List (Nat × Dgram)  -- accepted out of order
  toBegin : List (Dgram × CmdEnv)  -- commands accepted in order that have not begun (R393)
  first : Option (List Byte)  -- first reply of the latest command begun, where it could not leave at once
  unacked : List Sent
  backlog : List (Nat × List Byte)  -- type and payload waiting for send space
  window : Nat
  halved : Option Nat       -- tick of the latest halving
  timeouts : Nat            -- consecutive, with no advance of ack
  ece : Bool                -- a CE mark waits to be echoed
  ackDue : Bool
  deriving DecidableEq, Repr

/-- What encloses a packet that leaves by the quay port or the management port (R376, R377, R384, R442). -/
structure Frame where
  dstMac : Option Nat       -- none: the management station's, which the spec gives the package no way to learn
  srcMac : Nat
  tag : Option (Nat × Nat)  -- vid and pcp of an IEEE 802.1Q tag
  src : Nat                 -- 128 bits, IPv4 in IPv4-mapped form
  dst : Nat
  ttl : Nat                 -- or hop limit
  dontFragment : Bool       -- over IPv4
  ecn : Nat                 -- 2 is ECT(0)
  srcPort : Nat
  dstPort : Nat
  udpSum : Nat
  deriving DecidableEq, Repr

/-- What leaves the package. -/
inductive Out where
  | quay (frame : Frame) (flow type flags psn ack session : Nat) (payload : List Byte)
  | neighbor (tag : Option (Nat × Nat)) (mgmt : Bool) (ipv6 : Bool) (addr mac : Nat)
  | pause (pcp : Nat) (on : Bool)
  | report (frame : Frame) (bytes : List Byte)
  | link (port : Nat) (m : LinkMsg) (flits : List (List Byte))  -- with the flits as they leave; none where it stays in the package
  | flit (port type : Nat) (bytes : List Byte)
  | notice (kind rank seq group : Nat)
  deriving DecidableEq, Repr

/-- A message in a port's replay buffer: its first pseq, its flits, the message (R313). -/
structure Held where
  pseq : Nat
  flits : Nat
  vc : Nat
  job : Nat                 -- of a COPY, the harbour die whose queue it serves
  m : LinkMsg               -- a PORTCTL flit as kind 0, the failed port in its body
  deriving DecidableEq, Repr

/-- A tidelink port's link layer (R313 to R315). -/
structure Port where
  pseq : Nat
  expect : Nat
  part : Nat                -- flits accepted of a message that broke off (R313)
  acked : Nat               -- latest acknowledgement received
  nakSent : Bool
  replay : List Held
  waiting : List Held       -- messages without credits yet (pseq not assigned)
  credits : List Nat        -- per virtual channel 0 to 5
  retries : Nat             -- consecutive, without advance of ack
  since : Nat               -- tick from which flits are outstanding with no advance of ack and no retry (R313)
  owed : List (Nat × Nat)   -- channel and flits of credits to return once the calibration is over (R305)
  calibrating : Bool
  deriving DecidableEq, Repr

/-- A queued slot copy (R319). -/
structure CopyJob where
  src : Nat
  dst : Nat
  link : Nat
  len : Nat
  deriving DecidableEq, Repr

/-- A line in a harbour cache way (R218 to R221). -/
structure CacheLine where
  die : Nat
  way : Nat
  line : Nat                -- device address
  data : List PByte         -- 128 bytes, all poisoned or none
  err : Errors              -- what is wrong of it
  deriving DecidableEq, Repr

/-- The fabric: ports, round-robin pointers of the seven links, copy queues and cache ways of the harbour dies. -/
structure Fabric where
  ports : List Port         -- 32
  rr : List Nat             -- next member, links 0 to 6
  copies : List (List CopyJob)  -- 16
  cache : List CacheLine    -- most recently used first
  prefetch : List (Nat × Nat × Nat)  -- waiting at the harbour dies: die, device address, requesting core; oldest first (R222)
  down : Bool               -- every port stopped (TIDE_DISAGREE, POWER_TRIP)
  deriving DecidableEq, Repr

/-- A far write that waits for the end of its stack's window (R203): who writes, a basin address, bytes to store or, with the LOOSE bit,
to add (R249), and of an OUT stream its engine and row. -/
structure FarWait where
  core : Nat
  basin : Nat
  agent : Nat
  writer : Nat
  coreless : Bool
  add : Bool
  addr : Nat
  bytes : List PByte
  row : Option (Nat × Nat)
  deriving DecidableEq, Repr

/-- A sett's refresh windows (R202 to R206). -/
structure Win where
  left : Nat                -- edges of the window in progress
  since : Nat               -- edges since the start of the previous window, or since READY
  lastTick : Nat            -- tick of the latest window's start
  repair : List Nat         -- lines awaiting the badger, oldest first
  corr : List (Nat × Nat)   -- channel and tick of recent corrections
  phaseAt : Nat             -- first cycle since launch at which the next compiled or inserted window may start
  writes : List FarWait     -- writes that wait for the end of the window, oldest first
  deriving DecidableEq, Repr

/-- The package clock and the power controller (R235 to R237, R457 to R461). -/
structure Clock where
  framePos : Nat            -- tick within the TIDE_REF frame, 0 to 9
  group : Nat               -- edge of the group of 64
  level : Option Nat        -- throttle level waiting for the group boundary
  op : Option Nat           -- operating point waiting for the group boundary
  stopped : Bool            -- POWER_TRIP: every edge withheld
  period : Option Nat       -- tick of the latest control period
  overRun : Nat             -- consecutive periods at n = 8 above the cap
  fastAt : Option Nat       -- latest tick known to end an excess, while a fast limit is in force
  lowerLogic : Nat          -- POWER_POLICY lowering, °C
  lowerDram : Nat
  deriving DecidableEq, Repr

/-- A MEM_DIGEST of a window range that waits for its HREADs (R386, R398). -/
structure DigestJob where
  cmd : PendCmd
  addr : Nat
  len : Nat
  poly : Nat
  reads : List (Nat × Nat)  -- flow and tag of each HREAD
  deriving DecidableEq, Repr

/-- The quay: flows, commands pending, HREADs outstanding, silence count and BEATs. -/
structure Quay where
  flows : List Flow         -- 16
  cmds : List PendCmd
  hreads : List HRead
  tag : Nat                 -- tag of the latest HREAD
  digests : List DigestJob
  silence : Nat             -- ticks since the latest datagram of flow 0's peer
  silent : Bool             -- the present silence is already recorded
  beats : Nat
  beatAt : Option Nat       -- tick of the latest BEAT
  pausing : Bool            -- the package has paused the sending of its link partner (R376)
  paused : Bool
  held : List Out           -- packets formed while the port's priority is paused (R376)
  completed : Nat
  deriving DecidableEq, Repr

/-- The stage a boot stands in (Table 12.1). -/
inductive Stage where
  | none | fuse | flash | verify | config | wipe | ready
  deriving DecidableEq, Repr

/-- What the image gave (R420 to R424, R466). -/
structure Image where
  bytes : List Byte
  verified : Bool
  config : List (Nat × Word)  -- retained configuration records
  deriving DecidableEq, Repr

/-- A report's rate-limit record (R370): code, die, tick of the latest report, events suppressed since. -/
structure RateRec where
  code : Nat
  die : Nat
  tick : Nat
  suppressed : Nat
  deriving DecidableEq, Repr

/-- A copy of a record at the pilot (R370): event code of Table 10.14, die, block, basin and value. -/
structure RecCopy where
  code : Nat
  die : Nat
  block : Nat
  basin : Nat
  value : Word
  deriving DecidableEq, Repr

/-- The pilot: boot, keys, reports, JTAG and the I²C target. -/
structure Pilot where
  copies : List RecCopy     -- received, not yet reported, oldest first (R370)
  stage : Stage
  halted : Bool
  image : Image
  sinceGood : Nat           -- ticks since power good
  reportSeed : List Byte    -- secret half of the report key
  bootId : Nat
  seq : Nat                 -- reports since power-up
  rates : List RateRec
  telAt : Option Nat        -- tick, or boot-timer tick, of the latest TELEMETRY
  keyAt : Option Nat        -- boot-timer ticks of the latest KEY and BOOT reports
  bootAt : Option Nat
  telEbbs : Int             -- counts at the previous TELEMETRY, less what a wipe has cleared since
  telCorr : Int
  telRetries : Int
  telHolds : Int
  holds : Nat               -- INTEGRITY_HOLD replies since power-up (R444)
  failRun : Nat             -- consecutive AUTH_FAIL
  replBlown : Bool          -- replacement already blown since power-up
  retiredWipe : Bool        -- WIPE held after a transition to RETIRED
  wipeFor : Nat             -- 0 WIPE command, 1 life-cycle transition
  ir : Nat                  -- JTAG instruction register
  dr : List Byte            -- JTAG data register captured
  cells : List Byte         -- boundary-scan cells
  i2cOff : Nat
  i2cCap : List Byte        -- rest of the multi-byte field being read
  i2cOut : List Byte        -- bytes of the latest read
  deriving DecidableEq, Repr

/-- The lands of Table 13.2 that carry a level, and the converters. -/
structure Pins where
  boardEn : Bool
  pwrgd : Bool
  faultHeld : Bool          -- PKG_FAULT_N held low by a power good timeout
  thermtrip : Bool
  addrSel : Bool
  converters : Bool
  deriving DecidableEq, Repr

/-- The checks of the vector engine (R183): a significand's residue modulo 7, a parity bit, two copies compared. -/
inductive VecCheck where
  | residue | parity | copies
  deriving DecidableEq, Repr

/-- What can be broken in a unit (Tables 03.8, 04.11, 05.22; R85, R96, R104, R177, R184). A flip is XORed onto an A40 value, a held or
driven operand takes another value. -/
inductive Part where
  | slot (array row col slot flip : Nat)          -- a product slot, in its non-zero products
  | weight (array k col : Nat) (w : LogVal)       -- the weight that a cell holds
  | input (array berth k : Nat) (x : LogVal)      -- an input driven into its row after the injection point
  | chain (array row col flip : Nat)              -- a column's partial sum south of a row; row 128 is the checksum row's forwarding
  | sumColumn (array berth flip : Nat)            -- S_v
  | magColumn (array berth flip : Nat)            -- M_v
  | lane (array col flip : Nat)                   -- E[n]
  | injected (array berth k flip : Nat)           -- X_b[k]
  | load (array : Nat)                            -- what an array latches of a load
  | control (array : Nat)                         -- the control row's parity or the clock spine
  | staging (array bits : Nat)                    -- wrong bits in a word of the staging buffer
  | commit (array : Nat)                          -- one of the two datapaths at commit
  | mvuSlot (col slot flip : Nat)                 -- a product slot of the MVU, by output of the row group and leaf of the slice
  | mvuSum (col flip : Nat)                       -- an output's segment sum
  | mvuCheck (s m : Nat)                          -- flips of S and M
  | mvuImage (off flip : Nat)                     -- a byte of a row group altered between the outer-code check and the multipliers
  | mvuCommit                                     -- one of the two datapaths of the running addition and at commit
  | vec (stage lane : Nat) (chk : VecCheck) (err : Nat)  -- a stage's result in a lane
  | vecTree (chk : VecCheck) (err : Nat)          -- the reduction tree and its combiner
  | vecConv (path lane : Nat)                     -- one of the datapaths of a conversion into tensor D (0) or R (1)
  | vecComp (pass lane : Nat) (chk : VecCheck) (err : Nat)  -- a composite's stages in a pass over its row
  | opt (lane : Nat) (chk : VecCheck) (err : Nat) -- OPT_APPLY
  | mesh (link : Nat)                             -- a mesh link towards the die, in every flit over it that is no DRAM line (R37)
  deriving DecidableEq, Repr

/-- A hardware fault of a core's units: standing, or in one logical cycle alone. -/
structure Defect where
  part : Part
  core : Nat                -- of a harbour die: 20 + its number
  cycle : Option Nat
  deriving DecidableEq, Repr

/-- What the hardware did in one cycle, told by the tick and the time since power good: the W1C-S flags it set, the RO-L records it
captured, and the first event that found each other record held (R10, R12). -/
structure Fresh where
  tick : Nat
  since : Nat
  flags : List (Nat × Nat)      -- event register, flag
  caught : List Nat
  missed : List (Nat × Word)
  deriving DecidableEq, Repr

/-- Everything but the queue of waiting commands. -/
structure Chip where
  dev : Dev
  tide : Nat                -- the tide count, modulo 2^64 (R230)
  regs : Sparse Word        -- by register address (R41); unlisted registers hold their READY value
  mem : Mem
  vregs : Sparse Lane       -- by (core × 32 + register) × 512 + lane
  vstore : Sparse Byte      -- MVU vector stores, by (core × 16 + slot) × 133120 + byte, scales from 131072
  vpoison : Sparse Bool     -- their poison, by address / 8
  vsErr : Sparse Nat        -- wrong bits of a vector store's word, by address / 8 (R138)
  vrErr : Sparse Nat        -- wrong bits of a vector register's 64-bit word, by its first lane's key / 2 (R147)
  host : Sparse Byte        -- host memory behind the window, by host address
  hostBad : Sparse Bool     -- host lines whose read went unanswered (R388), by host address / 128
  cores : List Core         -- 40
  basins : List Basin       -- 4
  progs : List (Option Prog)  -- 8
  clk : Clock
  wins : List Win           -- 20
  fab : Fabric
  quay : Quay
  pilot : Pilot
  fuses : Fuses
  pins : Pins
  defects : List Defect
  free : Nat                -- the model's own: free values consumed (log entry 8, DESIGN CHOICE)
  wire : List Out           -- what has left the package, oldest first
  fresh : Fresh
  deriving DecidableEq, Repr

/-- The state: the chip and the commands waiting, first in first out. -/
structure State where
  chip : Chip
  pending : List Instr
  deriving DecidableEq, Repr

/-- No command of this model faults: the type is closed and empty. -/
inductive Fault where
  deriving DecidableEq, Repr

/-- Why a command has no meaning. -/
inductive Refusal where
  /-- Raised by an arm of `exec` that is not modelled yet; safe (the model stops where the hardware goes on). -/
  | notModelled (mnemonic : String)
  deriving DecidableEq, Repr

/-! ### Reset: the package at READY (R15, R425) -/

def Engine.reset : Engine :=
  { dir := 0, issue := 0, base := 0, step := 0, rows := 0, width := 0, post := 0, busyTo := none, heldTo := none, seq := 0,
    fl := none }

def Core.reset : Core :=
  { phase := .idle, cycle := 0, endCycle := none, half := false, ahead := 0, streamAddr := 0, bundles := 0, bundle := 0, queue := [],
    fetch := 0, fetchLoops := [], fetchAhead := 0, fetchEnd := false, waitLeft := 0, loose := false,
    loops := [], hold := none, ebb := none, adj := [], adjRun := [], passStart := none, passV := 0, passSplit := 0, passEn := 0, mvuIssue := 0,
    mvuKind := 0, mvuLastIntake := none, mvuRowCycles := 1, mvuLastCommit := none, mvuActive := 0, ldvTo := none, vecNext := 0,
    vrPend := [], lsTable := [], engines := List.replicate 4 Engine.reset, chkBusyTo := none, sat := 0, empty := 0,
    feedCycle := none, passes := [], mvus := [], ldv := none, vops := [], vecDesc := none, firsts := [], scan := none, lands := [], lateRow := none, now := Now.start }

def StepAcc.reset : StepAcc :=
  { firstTick := 0, opPoint := 0, thermal := 0, minLevel := 64, cap := 0, nf := List.replicate 7 0, sat := 0, empty := 0,
    feeds := 0, lastLoss := 0, gmax := 0, cycles := 0, ebbs := List.replicate 6 (0, 0), ebbEdges := 0, holdEdges := 0,
    colls := 0, cargos := 0, crcs := [], replica := none, spike := false, boundBad := false, poison := false,
    timeout := false, gateBits := 0, sampled := false }

def Basin.reset : Basin :=
  { running := false, live := false, t := 0, launchNo := 0, scope := 0, contract := 0, preempting := false, trapped := false, acc := StepAcc.reset,
    barLast := 0, barRelease := none, arrivals := [], colls := [], early := [], posts := [], posted := 0, ebbNotice := 0,
    remotes := [], openAt := none, discarding := false }

def Flow.reset : Flow :=
  { state := 0, peer := 0, peerAddr := 0, peerMac := 0, hostPort := 0, session := 0, rxNext := 0, txNext := 0, acked := 0,
    rxBuf := [], toBegin := [], first := none, unacked := [], backlog := [], window := 256, halved := none, timeouts := 0, ece := false,
    ackDue := false }

def Port.reset : Port :=
  { pseq := 0, expect := 0, part := 0, acked := 0, nakSent := false, replay := [], waiting := [], credits := [8, 16, 16, 576, 576, 0],
    retries := 0, since := 0, owed := [], calibrating := false }

def Win.reset : Win := { left := 0, since := 0, lastTick := 0, repair := [], corr := [], phaseAt := 0, writes := [] }

def Clock.reset : Clock :=
  { framePos := 0, group := 0, level := none, op := none, stopped := false, period := none, overRun := 0, fastAt := none,
    lowerLogic := 0, lowerDram := 0 }

def Quay.reset : Quay :=
  { flows := List.replicate 16 Flow.reset, cmds := [], hreads := [], tag := 0, digests := [], silence := 0, silent := false, beats := 0, beatAt := none,
    pausing := false, paused := false, held := [], completed := 0 }

def Fabric.reset : Fabric :=
  { ports := List.replicate 32 Port.reset, rr := List.replicate 7 0, copies := List.replicate 16 [], cache := [],
    prefetch := [], down := false }

/-- The die record a die presents at reset (log entry 3, DESIGN CHOICE). -/
def DieFuse.reset : DieFuse :=
  { recordOk := true, arrayOk := true, lot := List.replicate 7 48, wafer := 1, x := 0, y := 0, stepping := 2, crc := 0,
    disabled0 := 4, disabled1 := 4 }

def KeySlot.reset : KeySlot :=
  { ed := List.replicate 48 0, ml := List.replicate 48 0, programmed := false, revoked := false }

/-- The fuses of the package the reset state stands for (log entry 3, DESIGN CHOICE). -/
def Fuses.reset : Fuses :=
  { dies := List.replicate 40 DieFuse.reset, serial := List.replicate 16 48, provisioned := true, deployed := true,
    retired := false, seedKilled := false, entries := 0, exits := 0, replacements := 0, svnMin := 0,
    slots := List.replicate 4 KeySlot.reset, seed := List.replicate 32 0, seedOk := true, mac := 0, mismatches := 0 }

def Image.reset : Image := { bytes := [], verified := true, config := [] }

def Pilot.reset : Pilot :=
  { copies := [], stage := .ready, halted := false, image := Image.reset, sinceGood := 400000000, reportSeed := List.replicate 32 0,
    bootId := 0, seq := 0, rates := [], telAt := none, keyAt := none, bootAt := none, telEbbs := 0, telCorr := 0, telRetries := 0, telHolds := 0, holds := 0, failRun := 0,
    replBlown := false, retiredWipe := false, wipeFor := 0, ir := 1, dr := [], cells := [], i2cOff := 0, i2cCap := [],
    i2cOut := [] }

def Pins.reset : Pins :=
  { boardEn := true, pwrgd := true, faultHeld := false, thermtrip := false, addrSel := false, converters := true }

def Mem.reset : Mem := { cells := [], poison := [], lineErr := [], wordErr := [] }

/-- A cycle in which nothing happened yet. -/
def Fresh.none (tick since : Nat) : Fresh := { tick := tick, since := since, flags := [], caught := [], missed := [] }

def Chip.reset : Chip :=
  { dev := .ready, tide := 0, regs := [], mem := Mem.reset, vregs := [], vstore := [], vpoison := [], vsErr := [], vrErr := [], host := [], hostBad := [],
    cores := List.replicate 40 Core.reset, basins := List.replicate 4 Basin.reset, progs := List.replicate 8 none,
    clk := Clock.reset, wins := List.replicate 20 Win.reset, fab := Fabric.reset, quay := Quay.reset,
    pilot := Pilot.reset, fuses := Fuses.reset, pins := Pins.reset, defects := [], free := 0, wire := [], fresh := Fresh.none 0 0 }

/-- The package right after its release at READY (R15, R425), with no command waiting. -/
def State.reset : State := { chip := Chip.reset, pending := [] }

end Sys2Proof.Machine
end

