-- ==== Sys2Proof/Machine/Flags.lean ====
section
/-! DEFINITION. The register file's operations: fields, W1C-S flags with their companion counters (R10, R11), RO-L records
(R12) and saturating counters. -/

namespace Sys2Proof.Machine

/-- Pack fields, given as (low bit, width, value), into a register value. -/
def packF (l : List (Nat × Nat × Nat)) : Word := l.foldl (fun v f => fset v f.1 f.2.1 f.2.2) 0

/-- A register as it is held. -/
def regGet (r : Sparse Word) (a : Nat) : Word := Sparse.get regDefault r a

/-- Hold a value in a register. -/
def regPut (r : Sparse Word) (a : Nat) (v : Word) : Sparse Word := Sparse.set regDefault r a v

/-- A field of a register. -/
def regF (r : Sparse Word) (a lo w : Nat) : Nat := fget (regGet r a) lo w

/-- Set a field of a register. -/
def regSetF (r : Sparse Word) (a lo w x : Nat) : Sparse Word := regPut r a (fset (regGet r a) lo w x)

/-- Add to a counter field, saturating at all ones. -/
def regAddF (r : Sparse Word) (a lo w k : Nat) : Sparse Word := regSetF r a lo w (satAdd w (regF r a lo w) k)

/-- `n` hardware set events of flag `f` of the event register at `base`: the flag stands, and its companion counter, at
the f-th index after the event register, advances once for each (R10, R11). -/
def regEvents (r : Sparse Word) (base f n : Nat) : Sparse Word :=
  if n = 0 then r else regAddF (regSetF r base f 1 1) (base + 8 * (f + 1)) 0 32 n

/-- Capture an RO-L record whose valid bit is bit 0: the first qualifying event after a read stands (Table 00.3). -/
def regLatch (r : Sparse Word) (a : Nat) (v : Word) : Sparse Word := if fbit (regGet r a) 0 then r else regPut r a v

/-- The hardware sets a flag in this cycle. -/
def Fresh.set (f : Fresh) (base flag : Nat) : Fresh :=
  if f.flags.contains (base, flag) then f else { f with flags := (base, flag) :: f.flags }

/-- A qualifying event of a record in this cycle, and whether it found the record held. -/
def Fresh.capture (f : Fresh) (a : Nat) (v : Word) (held : Bool) : Fresh :=
  if !held then { f with caught := a :: f.caught }
  else if f.caught.contains a || f.missed.any (fun m => m.1 == a) then f else { f with missed := (a, v) :: f.missed }

/-- The flags of an event register set in this cycle. -/
def Fresh.mask (f : Fresh) (base : Nat) : Word := packF ((f.flags.filter fun x => x.1 == base).map fun x => (x.2, 1, 1))

namespace Chip

def reg (c : Chip) (a : Nat) : Word := regGet c.regs a
def regField (c : Chip) (a lo w : Nat) : Nat := regF c.regs a lo w
def put (c : Chip) (a : Nat) (v : Word) : Chip := { c with regs := regPut c.regs a v }
def setField (c : Chip) (a lo w x : Nat) : Chip := { c with regs := regSetF c.regs a lo w x }
def addField (c : Chip) (a lo w k : Nat) : Chip := { c with regs := regAddF c.regs a lo w k }

/-- What the hardware did in the present cycle: since the tide count last moved (log entry 60, DESIGN CHOICE). -/
def cycleNow (c : Chip) : Fresh :=
  if c.fresh.tick = c.tide && c.fresh.since = c.pilot.sinceGood then c.fresh else Fresh.none c.tide c.pilot.sinceGood

/-- `n` set events of a flag. -/
def events (c : Chip) (base f n : Nat) : Chip :=
  { c with regs := regEvents c.regs base f n, fresh := if n = 0 then c.fresh else c.cycleNow.set base f }
def event (c : Chip) (base f : Nat) : Chip := c.events base f 1
/-- A qualifying event of a record: captured where none is held; kept for a read of this same cycle where one is (R12). -/
def latch (c : Chip) (a : Nat) (v : Word) : Chip :=
  { c with regs := regLatch c.regs a v, fresh := c.cycleNow.capture a v (fbit (c.reg a) 0) }

end Chip
end Sys2Proof.Machine
end

