-- ==== Sys2Proof/Machine/Ops.lean ====
section
/-! DEFINITION. The shared operations: basin geometry and addresses, memory with its codes and poison, reports, faults and
drain, non-finite charges, register views, sends and replies. -/

namespace Sys2Proof.Machine

/-- The answer of a meaning: the chip's next state, the queue of waiting commands untouched. -/
def State.upd (s : State) (f : Chip → Chip) : Host.Outcome State Fault Refusal := .next { s with chip := f s.chip }

/-! ### Lists of units -/

/-- The faults of a core's units that act in a cycle; with none given, the standing ones. -/
def partsAt (ds : List Defect) (core : Nat) (cycle : Option Nat) : List Part :=
  (ds.filter fun d => d.core = core && (d.cycle.isNone || d.cycle = cycle)).map Defect.part

/-- The faults of a core's units that act in some cycle of a span. -/
def partsIn (ds : List Defect) (core lo hi : Nat) : List Part :=
  (ds.filter fun d => d.core = core && (match d.cycle with
    | some t => decide (lo ≤ t && t ≤ hi)
    | none => true)).map Defect.part

namespace Chip

def core (c : Chip) (i : Nat) : Core := c.cores.getD i Core.reset
def basin (c : Chip) (b : Nat) : Basin := c.basins.getD b Basin.reset
def flow (c : Chip) (f : Nat) : Flow := c.quay.flows.getD f Flow.reset
def port (c : Chip) (p : Nat) : Port := c.fab.ports.getD p Port.reset
def win (c : Chip) (s : Nat) : Win := c.wins.getD s Win.reset
def prog (c : Chip) (s : Nat) : Option Prog := c.progs.getD s none
def die (c : Chip) (d : Nat) : DieFuse := c.fuses.dies.getD d DieFuse.reset
def setCore (c : Chip) (i : Nat) (f : Core → Core) : Chip := { c with cores := modifyAt c.cores i f }
def setBasin (c : Chip) (b : Nat) (f : Basin → Basin) : Chip := { c with basins := modifyAt c.basins b f }
def setAcc (c : Chip) (b : Nat) (f : StepAcc → StepAcc) : Chip := c.setBasin b fun x => { x with acc := f x.acc }
def setFlow (c : Chip) (i : Nat) (f : Flow → Flow) : Chip :=
  { c with quay := { c.quay with flows := modifyAt c.quay.flows i f } }
def setPort (c : Chip) (p : Nat) (f : Port → Port) : Chip :=
  { c with fab := { c.fab with ports := modifyAt c.fab.ports p f } }
def setWin (c : Chip) (s : Nat) (f : Win → Win) : Chip := { c with wins := modifyAt c.wins s f }
def out (c : Chip) (o : Out) : Chip := { c with wire := c.wire ++ [o] }
def overList {α : Type} (c : Chip) (l : List α) (f : Chip → α → Chip) : Chip := l.foldl f c

/-! ### Basins (R44, R45, Table 01.10) -/

/-- The cut in force: 0 one, 1 two, 2 four basins. -/
def cut (c : Chip) : Nat := c.regField R.pltBasinCut 0 2
/-- Rows per basin of a cut. -/
def rowsOf (cut : Nat) : Nat := if cut = 0 then 4 else if cut = 1 then 2 else 1
def rows (c : Chip) : Nat := rowsOf c.cut
/-- Basins of the cut. -/
def basinCount (c : Chip) : Nat := 4 / c.rows
def firstRow (c : Chip) (b : Nat) : Nat := b * c.rows
def firstSett (c : Chip) (b : Nat) : Nat := 5 * c.firstRow b
def firstCore (c : Chip) (b : Nat) : Nat := 10 * c.firstRow b
def firstHarbour (c : Chip) (b : Nat) : Nat := 20 + 4 * c.firstRow b
def coreCount (c : Chip) : Nat := 10 * c.rows
def settCount (c : Chip) : Nat := 5 * c.rows
def harbourCount (c : Chip) : Nat := 4 * c.rows
def coresOf (c : Chip) (b : Nat) : List Nat := tabulate c.coreCount (c.firstCore b + ·)
def settsOf (c : Chip) (b : Nat) : List Nat := tabulate c.settCount (c.firstSett b + ·)
def harboursOf (c : Chip) (b : Nat) : List Nat := tabulate c.harbourCount (c.firstHarbour b + ·)
def basinsIn (c : Chip) : List Nat := List.range c.basinCount
def basinOfCore (c : Chip) (i : Nat) : Nat := i / c.coreCount
def basinOfSett (c : Chip) (s : Nat) : Nat := s / c.settCount
/-- The basin that owns a harbour die's row (R44). -/
def basinOfHarbour (c : Chip) (h : Nat) : Nat := (h - 20) / c.harbourCount

/-! ### Device addresses (R38, Table 01.6) -/

/-- Bytes of one stack. -/
def stackSize : Nat := 0x1800000000
/-- Where a device address lies. -/
inductive Region where
  | dram (stack : Nat)
  | scratch (core off : Nat)
  | pinned (die off : Nat)
  | window
  | unmapped
  deriving DecidableEq, Repr

def scratchBase (i : Nat) : Nat := 0x20000000000 + i * 0x4000000
def pinnedBase (h : Nat) : Nat := 0x30000000000 + (h - 20) * 0x10000000

/-- Pinned ways of a harbour die (R218). -/
def pinnedWays (c : Chip) (h : Nat) : Nat := c.regField (R.hbcWays h) 0 5

def region (c : Chip) (a : Nat) : Region :=
  if a < 20 * stackSize then .dram (a / stackSize)
  else if 0x20000000000 ≤ a && a < scratchBase 40 then
    let o := (a - 0x20000000000) % 0x4000000
    if o < 0x3000000 then .scratch ((a - 0x20000000000) / 0x4000000) o else .unmapped
  else if 0x30000000000 ≤ a && a < 0x30100000000 then
    let h := 20 + (a - 0x30000000000) / 0x10000000
    let o := (a - 0x30000000000) % 0x10000000
    if o < c.pinnedWays h * 0x800000 then .pinned h o else .unmapped
  else if 0x100000000000 ≤ a && a < 0x1000000000000 then .window
  else .unmapped

/-- Relocate a basin address (R47); none where it is unmapped. -/
def relocate (c : Chip) (b a : Nat) : Option Nat :=
  if a < c.settCount * stackSize then some (a + c.firstSett b * stackSize)
  else if 0x20000000000 ≤ a && a < scratchBase c.coreCount then
    let d := a + c.firstCore b * 0x4000000
    match c.region d with
    | .scratch _ _ => some d
    | _ => none
  else if 0x30000000000 ≤ a && a < 0x30000000000 + c.harbourCount * 0x10000000 then
    let d := a + 4 * c.firstRow b * 0x10000000
    match c.region d with
    | .pinned _ _ => some d
    | _ => none
  else if 0x100000000000 ≤ a && a < 0x1000000000000 then some a
  else none

/-- The basin address of a device address of a basin, the inverse of R47 for DRAM and pinned ways. -/
def toBasin (c : Chip) (b a : Nat) : Nat :=
  if a < 20 * stackSize then a - c.firstSett b * stackSize
  else if a < scratchBase 40 then a - c.firstCore b * 0x4000000
  else if a < 0x30100000000 then a - 4 * c.firstRow b * 0x10000000
  else a

/-- The basin that owns a DRAM, scratch or pinned device address. -/
def ownerOf (c : Chip) (a : Nat) : Option Nat :=
  match c.region a with
  | .dram n => some (c.basinOfSett n)
  | .scratch i _ => some (c.basinOfCore i)
  | .pinned h _ => some (c.basinOfHarbour h)
  | _ => none

end Chip

/-! ### Memory at rest: bytes, poison and codes (R195, R198, R208; Tables 06.2, 06.4) -/

/-- Whether a device address lies in the core scratch regions. -/
def isScratch (a : Nat) : Bool := 0x20000000000 ≤ a && a < 0x30000000000

/-- Size of the store unit that holds an address (Table 06.4). -/
def unitSize (a : Nat) : Nat := if isScratch a then 8 else 128

/-- First address of the store unit that holds an address. -/
def unitOf (a : Nat) : Nat := a / unitSize a * unitSize a

/-- The store units that a range touches, by first address. -/
def unitsOf (a n : Nat) : List Nat :=
  if n = 0 then [] else
  let z := unitSize a
  tabulate ((a + n - 1) / z - a / z + 1) fun i => (a / z + i) * z

namespace Mem

def byteDefault : Nat → Byte := fun _ => 0
def falseDefault : Nat → Bool := fun _ => false
def zeroDefault : Nat → Nat := fun _ => 0

/-- The stored byte at a device address. -/
def byte (m : Mem) (a : Nat) : Byte := Sparse.get byteDefault m.cells a
/-- Whether the unit that holds an address is marked poisoned. -/
def poisoned (m : Mem) (a : Nat) : Bool := Sparse.get falseDefault m.poison (unitOf a)
def wordErrors (m : Mem) (a : Nat) : Nat := Sparse.get zeroDefault m.wordErr a
def errDefault : Nat → Errors := fun _ => []
/-- What is wrong of a line at rest. -/
def lineRaw (m : Mem) (u : Nat) : Errors := Sparse.get errDefault m.lineErr u
/-- What is wrong of a line as the outer code meets it: a DRAM die corrects its inner words first (R192). -/
def lineError (m : Mem) (u : Nat) : Errors :=
  match m.lineRaw u with
  | [] => []
  | e => if u < 20 * Chip.stackSize then innerRead e else e
/-- Its wrong symbols (R195). -/
def lineErrors (m : Mem) (u : Nat) : Nat := (m.lineError u).length
/-- The corrections that its DRAM die reports on a read (R192). -/
def innerErrors (m : Mem) (u : Nat) : Nat :=
  match m.lineRaw u with
  | [] => 0
  | e => if u < 20 * Chip.stackSize then innerFixes e else 0

/-- Store one byte; nothing else of the memory changes. -/
def setByte (m : Mem) (a : Nat) (v : Byte) : Mem := { m with cells := Sparse.set byteDefault m.cells a v }
/-- Mark or clear a unit's poison. -/
def setPoison (m : Mem) (u : Nat) (p : Bool) : Mem := { m with poison := Sparse.set falseDefault m.poison u p }
def setLineRaw (m : Mem) (u : Nat) (e : Errors) : Mem := { m with lineErr := Sparse.set errDefault m.lineErr u e }
def setWordErr (m : Mem) (u n : Nat) : Mem := { m with wordErr := Sparse.set zeroDefault m.wordErr u n }
/-- A line stored anew: nothing of it is wrong. -/
def renew (m : Mem) (u : Nat) : Mem := m.setLineRaw u []

/-- The canonical form of the memory: addresses strictly rising, no entry equal to what an unlisted one reads as. -/
def wf (m : Mem) : Bool :=
  Sparse.wf byteDefault m.cells && Sparse.wf falseDefault m.poison && Sparse.wf errDefault m.lineErr &&
    Sparse.wf zeroDefault m.wordErr

/-- Decode of a stored unit, `t` the correction limit of each line: the outer code of a line (Table 06.2), or SECDED of a scratch word,
which covers its poison bit (R198, R208). With it what the delivered line still has wrong. -/
def decodeAt (m : Mem) (t : Nat → Nat) (u : Nat) : Code × Errors :=
  if isScratch u then
    (if 2 ≤ m.wordErrors u then .bad
     else if m.poisoned u then (if m.wordErrors u = 0 then .stored else .storedErr)
     else if m.wordErrors u = 0 then .good else .corrected, [])
  else decodeLine (m.lineError u) (m.poisoned u) (t u)

def decode (m : Mem) (t : Nat → Nat) (u : Nat) : Code := (m.decodeAt t u).1

/-- The byte that a reader of a unit that delivers sees. -/
def seen (m : Mem) (t : Nat → Nat) (a : Nat) : Byte := m.byte a ^^^ (m.decodeAt t (unitOf a)).2.byte (a - unitOf a)

/-- Store bytes over the cells from an address; poisoned bytes store zero. -/
def storeBytes (m : Mem) : Nat → List PByte → Mem
  | _, [] => m
  | a, b :: t => storeBytes (m.setByte a (b.getD 0)) (a + 1) t

/-- Zero `n` cells from an address. -/
def zeroBytes (m : Mem) (a n : Nat) : Mem := m.storeBytes a (List.replicate n none)

/-- A unit written back as a reader sees it: nothing of it is wrong any more. -/
def settle (m : Mem) (t : Nat → Nat) (u : Nat) : Mem :=
  let fresh := if isScratch u then m.setWordErr u 0 else m.renew u
  if (m.decodeAt t u).2.isEmpty then fresh else fresh.storeBytes u (tabulate (unitSize u) fun i => some (m.seen t (u + i)))

/-- Write `bytes` into one unit from offset address `a` (R198, R199): a poisoned byte poisons the unit; a full cover clears
poison and old errors; a partial write into a poisoned or uncorrectable unit leaves it poisoned, else it merges. -/
def writeUnit (m : Mem) (t : Nat → Nat) (a : Nat) (bytes : List PByte) : Mem :=
  let u := unitOf a
  let z := unitSize a
  let full := bytes.length = z
  let fresh := m.settle t u
  if bytes.any (· == none) || (!full && !(m.decode t u).delivers) then (fresh.zeroBytes u z).setPoison u true
  else (fresh.storeBytes a bytes).setPoison u false

/-- Write bytes from an address, unit by unit; `fuel` bounds the units. -/
def writeAux (t : Nat → Nat) : Nat → Mem → Nat → List PByte → Mem
  | 0, m, _, _ => m
  | _ + 1, m, _, [] => m
  | fuel + 1, m, a, b :: l =>
    let n := unitOf a + unitSize a - a
    writeAux t fuel (m.writeUnit t a ((b :: l).take n)) (a + n) ((b :: l).drop n)

/-- Write bytes from an address. -/
def write (m : Mem) (t : Nat → Nat) (a : Nat) (bytes : List PByte) : Mem := writeAux t bytes.length m a bytes

/-- Read `n` bytes from an address as a reader with correction limits `t` sees them. -/
def read (m : Mem) (t : Nat → Nat) (a n : Nat) : List PByte :=
  (unitsOf a n).flatMap fun u =>
    let lo := max a u
    let hi := min (a + n) (u + unitSize a)
    let r := m.decodeAt t u
    if r.1.delivers then tabulate (hi - lo) fun i => some (m.byte (lo + i) ^^^ r.2.byte (lo + i - u))
    else List.replicate (hi - lo) none

end Mem

/-- The bytes themselves, poisoned ones zero. -/
def plain (l : List PByte) : List Byte := l.map fun b => b.getD 0
/-- Bytes without poison. -/
def clean (l : List Byte) : List PByte := l.map some
/-- Whether a poisoned byte is among them. -/
def dirty (l : List PByte) : Bool := l.any (· == none)

namespace Chip

/-- The correction limit a line is decoded under: its stack's MEM_CTRL, or 6 for pinned lines (R195, R229). -/
def tmax (c : Chip) (a : Nat) : Nat := if a < 20 * stackSize then min 6 (c.regField (R.memCtrl (a / stackSize)) 0 3) else 6

/-- What a reader sees at a device address: poison where nothing is mapped (R39). -/
def peek (c : Chip) (a n : Nat) : List PByte := c.mem.read c.tmax a n

/-- The copies in the harbour cache ways follow what is stored in their lines (R221). -/
def refreshCopies (c : Chip) (a n : Nat) : Chip :=
  if c.fab.cache.isEmpty then c
  else { c with fab := { c.fab with cache := c.fab.cache.map fun l =>
    if a < l.line + 128 && l.line < a + n then { l with data := c.peek l.line 128, err := [] } else l } }

/-- Store bytes at a device address. -/
def poke (c : Chip) (a : Nat) (bytes : List PByte) : Chip :=
  refreshCopies { c with mem := c.mem.write c.tmax a bytes } a bytes.length

/-! ### Step state, reports, faults and drain (R201, R363 to R365) -/

/-- Whether the basin has an undecided step (R287; SEQ_STEP_STATUS_b open). -/
def undecided (c : Chip) (b : Nat) : Bool := c.regField (R.seqStepStatus b) 8 1 == 1
def gateOpen (c : Chip) (b : Nat) : Bool := c.regField (R.seqGate b) 0 1 == 1
def gatePending (c : Chip) (b : Nat) : Bool := c.regField (R.seqGate b) 1 1 == 1
def bound (c : Chip) (b : Nat) : Bool := c.regField (R.seqBind b) 3 1 == 1
def audited (c : Chip) (b : Nat) : Bool := c.regField (R.seqBind b) 4 1 == 1
def running (c : Chip) (b : Nat) : Bool := (c.basin b).running
/-- Whether any basin is in RUN. -/
def anyRun (c : Chip) : Bool := c.basinsIn.any c.running
def anyUndecided (c : Chip) : Bool := c.basinsIn.any c.undecided

/-- An integrity event of a basin while its gate is open sets late_event (R358). -/
def lateEvent (c : Chip) (b : Nat) : Chip := if c.gateOpen b then c.setField (R.seqGate b) 6 1 1 else c

/-- Report to the sett's integrity block: kind 0 poisoned read, 1 poisoned write, 2 ADDR_UNMAPPED, 3 POISON_DESC (R39,
R200, R201; Table 10.18). Each keeps the step from committing. -/
def report (c : Chip) (core kind agent addr : Nat) : Chip :=
  let s := core / 2
  let c := c.event (R.intEvents s) (kind + 1)
  let c := c.latch (R.intErrRec s)
    (packF [(0, 1, 1), (1, 2, kind), (3, 1, core % 2), (4, 4, agent), (8, 48, addr)])
  (c.setField (R.intStatus s) 0 1 1).lateEvent (c.basinOfCore core)

/-- Report unless the condition fails. -/
def reportIf (c : Chip) (p : Bool) (core kind agent addr : Nat) : Chip := if p then c.report core kind agent addr else c

/-- A copy of a record goes to the pilot (R370); it reports none that comes in OFF, BOOT or WIPE. An event with no record of its own sends
its register (log entry 65, DESIGN CHOICE). -/
def tell (c : Chip) (code die block basin : Nat) (value : Word) : Chip :=
  if [Dev.off, Dev.boot, Dev.wipe].contains c.dev then c
  else { c with pilot := { c.pilot with
    copies := c.pilot.copies ++ [{ code := code, die := die, block := block, basin := basin, value := value }] } }

/-- A record captures an event, and its copy goes to the pilot (R370). -/
def capture (c : Chip) (a : Nat) (v : Word) (code basin : Nat) : Chip :=
  if fbit (c.reg a) 0 then c.latch a v else (c.latch a v).tell code (raDie a) (raBlock a) basin v

/-- The pilot learns of SEQ_DRAIN (R370). -/
def tellDrain (c : Chip) (code : Nat) : Chip := c.tell code 36 0x19 (c.regField R.seqDrain 15 2) (c.reg R.seqDrain)

/-- The pilot learns of an event of the tide dies, in TID_PKG_EVENTS of die 38 (R370, R469). -/
def tellTide (c : Chip) : Chip := c.tell 0x18 (raDie R.tidPkgEvents) (raBlock R.tidPkgEvents) 0 (c.reg R.tidPkgEvents)

/-- The package is flagged for replacement (R363, R366). -/
def flagReplacement (c : Chip) : Chip :=
  if c.regField R.seqDrain 3 1 = 1 then c else (c.setField R.seqDrain 3 1 1).tellDrain 0x13

/-- Start a drain, or add to one (R365): the first trigger alone is recorded. -/
def startDrain (c : Chip) (code die basin : Nat) (replace : Bool) : Chip :=
  let c := if c.regField R.seqDrain 0 1 = 1 then c
    else (c.put R.seqDrain ((c.reg R.seqDrain) |||
      packF [(0, 1, 1), (5, 4, code), (9, 6, die), (15, 2, basin), (21, 43, c.tide)])).tellDrain 0x10
  if replace then c.flagReplacement else c

/-- The setts that record a fault of a die, and the basins it touches (R363). -/
def faultSetts (c : Chip) (die : Nat) : List Nat :=
  if die < 20 then [die] else if die < 36 then [5 * ((die - 20) / 4)] else c.basinsIn.map c.firstSett
def faultBasins (c : Chip) (die : Nat) : List Nat :=
  if die < 20 then [c.basinOfSett die] else if die < 36 then [c.basinOfHarbour die] else c.basinsIn

/-- A hardware fault of Table 10.10: INT event and record, the fault flag of every undecided step it touches, and a drain
with replacement (R363). `k` is the core, `unit` the unit code of INT_FAULT_REC. -/
def hwFault (c : Chip) (code die k unit : Nat) : Chip :=
  let c1 := (c.faultSetts die).foldl (fun c s =>
    let c := c.event (R.intEvents s) 0
    let c := c.capture (R.intFaultRec s) (packF [(0, 1, 1), (1, 4, code), (5, 1, k), (6, 3, unit), (10, 54, c.tide)]) code
      (c.basinOfSett s)
    c.setField (R.intStatus s) 2 1 1) c
  let c2 := (c.faultBasins die).foldl (fun c b =>
    if c.undecided b then c.setField (R.seqStepStatus b) 10 1 1 else c) c1
  c2.startDrain code die (if die < 36 then (c.faultBasins die).headD 0 else 0) true

/-- Whether a mesh flit for core `n`, or harbour die `n - 20`, fails its CRC-32C (R37). -/
def meshBroken (c : Chip) (n : Nat) : Bool :=
  (partsAt c.defects n (some (c.core n).cycle)).any fun p => match p with
    | .mesh _ => true
    | _ => false

/-- The receiving die raises MESH_CRC; its record has no field for the link (R37, R363) (log entry 6, DESIGN CHOICE). -/
def meshFault (c : Chip) (n : Nat) : Chip :=
  let die := if n < 40 then n / 2 else n - 20
  ((c.faultSetts die).foldl (fun c s => c.event (R.intEvents s) 6) c).hwFault 9 die (if n < 40 then n % 2 else 0) 7

/-- The node, as `meshBroken` numbers it, that a die's registers are reached by: the die's first core, or a harbour die. -/
def dieNode (die : Nat) : Nat := if die < 20 then 2 * die else die + 20

/-- A control flit to a node: a broken one raises MESH_CRC; what the poisoned flit then does the spec does not say, and it acts as sent
(R37) (log entry 6, DESIGN CHOICE). -/
def meshNote (c : Chip) (n : Nat) : Chip := if c.meshBroken n then c.meshFault n else c

/-- A register access to a die crosses the mesh (R37). -/
def meshReg (c : Chip) (a : Nat) : Chip := c.meshNote (dieNode (raDie a))

/-- A command to every core of a basin crosses the mesh (R37). -/
def meshCores (c : Chip) (b : Nat) : Chip := (c.coresOf b).foldl meshNote c

/-- Where a byte of a stack lies (Table 06.1). -/
structure StackPlace where
  channel : Nat
  die : Nat
  bank : Nat
  row : Nat
  col : Nat
  deriving DecidableEq, Repr

/-- stack_map of R190: `a` is the offset in the stack. -/
def stackMap (a : Nat) : StackPlace :=
  let l := a / 128
  let n := l / 128
  { channel := l % 128, die := l % 128 / 8, bank := n / 16 % 32, row := n / 512, col := n % 16 }

/-- A place's line in its channel. -/
def StackPlace.line (p : StackPlace) : Nat := p.row * 512 + p.bank * 16 + p.col

/-- A line of a stack corrected: counted, and its channel's corrections within 2^32 ticks held against the threshold (R197). -/
def noteCorrected (c : Chip) (s line : Nat) : Chip :=
  let ch := (stackMap (128 * line)).channel
  let c := (c.event (R.memEvents s) 0).setWin s fun w =>
    { w with corr := (w.corr.filter fun e => c.tide < e.2 + 2 ^ 32) ++ [(ch, c.tide)] }
  if 4096 < ((c.win s).corr.filter fun e => e.1 = ch).length then
    let c := c.event (R.memEvents s) 7
    c.tell 0x14 s 0x0C (c.basinOfSett s) (c.reg (R.memEvents s))
  else c

/-- An uncorrectable line of a stack: `kind` as MEM_ECC_REC has it (R197); the pilot gets the record's copy (R370) (log entry 65, DESIGN
CHOICE). -/
def noteLost (c : Chip) (core s line kind : Nat) : Chip :=
  let p := stackMap (128 * line)
  ((c.event (R.memEvents s) 1).capture (R.memEccRec s)
    (packF [(0, 1, 1), (1, 2, kind), (3, 7, p.channel), (10, 23, p.line)]) 8 (c.basinOfSett s)).hwFault 8 s (core % 2) 7

/-- A line of a stack read: the corrections of its die, and its outer code (R192, R195, R197) (log entry 41, DEDUCED). -/
def noteLine (c : Chip) (core s u kind : Nat) : Chip :=
  let line := (u - s * stackSize) / 128
  let c := foldN (c.mem.innerErrors u) (fun c _ => c.event (R.memEvents s) 3) c
  match c.mem.decode c.tmax u with
  | .good => c
  | .corrected => c.noteCorrected s line
  | .stored => c.event (R.memEvents s) 2
  | .storedErr => c.event (R.memEvents s) 2
  | .bad => c.noteLost core s line kind

/-- Effects of reading a scratch word or a pinned line (R208, R223). -/
def noteOther (c : Chip) (u : Nat) : Chip :=
  match c.region u, c.mem.decode c.tmax u with
  | .scratch i _, .corrected => c.event (R.strEvents i) 3
  | .scratch i _, .storedErr => c.event (R.strEvents i) 3
  | .scratch i _, .bad => c.hwFault 7 (i / 2) (i % 2) 6
  | .pinned h _, .corrected => { c.event (R.hbcEvents h) 0 with mem := c.mem.settle c.tmax u }
  | .pinned h _, .bad => (c.event (R.hbcEvents h) 1).hwFault 8 h 0 7
  | _, _ => c

/-- Effects of reading a unit, whatever was read: corrections counted, stored poison counted, uncorrectable lines and words as
hardware faults; a line corrected in two or more symbols joins the badger's list (R195 to R197, R208, R223). `core` reads. -/
def noteUnit (c : Chip) (core u : Nat) : Chip :=
  match c.region u with
  | .dram s =>
    let l := (u - s * stackSize) / 128
    let two := 2 ≤ c.mem.lineErrors u && c.mem.decode c.tmax u == .corrected && !(c.win s).repair.contains l
    let c := c.noteLine core s u 0
    if two then c.setWin s fun w => { w with repair := (w.repair ++ [l]).drop (w.repair.length + 1 - 16) } else c
  | _ => c.noteOther u

/-- Effects of reading a range. -/
def noteRead (c : Chip) (core a n : Nat) : Chip := (unitsOf a n).foldl (fun c u => c.noteUnit core u) c

/-- Effects of a write of part of a unit, which reads its old contents (R195, R199; Table 06.26). -/
def noteMerge (c : Chip) (core d n : Nat) : Chip :=
  if n = unitSize d then c
  else match c.region d with
    | .dram s => c.noteLine core s (unitOf d) 2
    | _ => c.noteOther (unitOf d)

/-- Effects of a write on the units of a range that it covers in part. -/
def noteMerges (c : Chip) (core a n : Nat) : Chip :=
  (unitsOf a n).foldl (fun c u =>
    let lo := max a u
    c.noteMerge core lo (min (a + n) (u + unitSize a) - lo)) c

/-! ### Non-finite charges (R166, R330, R372) -/

/-- Charge one cause to a core: step and total counters, the sett's first record, nf events; `unit` is the unit code of
INT_NF_FIRST. -/
def charge (c : Chip) (core unit cause cycle : Nat) : Chip :=
  let s := core / 2
  let c := c.addField (R.vecNfStep core cause) 0 32 1
  let c := c.addField (R.vecNfTotal core cause) 0 32 1
  let c := c.event (R.intEvents s) 9
  let c := c.latch (R.intNfFirst s)
    (packF [(0, 1, 1), (1, 3, cause), (4, 1, core % 2), (5, 3, unit), (9, 55, cycle)])
  (c.setField (R.intStatus s) 1 1 1).lateEvent (c.basinOfCore core)

/-! ### Audit (R274) -/

/-- The cycle that TID_CYCLE_k shows (R238). -/
def shownCycle (c : Chip) (i : Nat) : Nat := (c.core i).endCycle.getD (c.core i).cycle

/-- A hazard in audit mode: the first of a launch latches TID_AUDIT_k, and the basin stops at the end of the tick as PREEMPT stops it;
once its gate is open that is deferred (R272). Of several in one cycle the lowest core's lowest code is latched (log entry 43, DESIGN
CHOICE). -/
def auditTrap (c : Chip) (core hazard slot : Nat) : Chip :=
  let b := c.basinOfCore core
  if !c.audited b then c
  else
    let k := c.core core
    let w := packF [(0, 1, 1), (1, 5, hazard), (6, 4, slot), (10, 24, k.bundle), (34, 30, k.cycle)]
    if !(c.basin b).trapped then
      let c := if c.gateOpen b then c.setField (R.seqGate b) 7 1 1 else c
      (c.latch (R.tidAudit core) w).setBasin b fun x => { x with trapped := true }
    else match (c.coresOf b).find? fun j => fbit (c.reg (R.tidAudit j)) 0 && fget (c.reg (R.tidAudit j)) 34 30 = k.cycle % 2 ^ 30 with
      | none => c
      | some j =>
        if core < j then (c.put (R.tidAudit j) 0).put (R.tidAudit core) w
        else if core = j && hazard < fget (c.reg (R.tidAudit j)) 1 5 then c.put (R.tidAudit core) w
        else c

/-! ### Window apertures (R385) -/

/-- The aperture that serves an access of a basin at a window address: its flow and the host address. -/
def aperture (c : Chip) (b a : Nat) : Option (Nat × Nat) :=
  (List.range 16).findSome? fun i =>
    let l := c.reg (R.quaAperLen i)
    let dev := c.regField (R.quaAperDev i) 0 48
    if fbit l 44 && fbit l (40 + b) && dev ≤ a && a < dev + 4096 * fget l 0 36
    then some (fget l 36 4, ((c.reg (R.quaAperHost i)).toNat + (a - dev)) % 2 ^ 64) else none

/-! ### Quayline sends (R379, R383) and replies (R389, R392) -/

/-- The window packet size of a flow (R387). -/
def windowSize (c : Chip) (f : Nat) : Nat :=
  let mf := c.regField R.quaNet 0 14
  let vlan := c.regField R.quaNet 14 1
  let ip := if (c.flow f).peerAddr / 2 ^ 32 = 0xFFFF then 20 else 40
  min 8192 (128 * ((mf - 14 - 4 * vlan - 4 - ip - 8 - 24 - 16) / 128))

/-- Whether a reply with `n` bytes of body fits a frame on a flow (Table 11.7's closing rule). -/
def replyFits (c : Chip) (f n : Nat) : Bool :=
  let vlan := c.regField R.quaNet 14 1
  let ip := if (c.flow f).peerAddr / 2 ^ 32 = 0xFFFF then 20 else 40
  14 + 4 * vlan + 4 + ip + 8 + 24 + 32 + n + 4 ≤ c.regField R.quaNet 0 14

/-- Unacknowledged packets of a flow. -/
def unackedOf (f : Flow) : Nat := f.unacked.length

/-- The sum of bytes as 16-bit words in network order. -/
def wordSum : List Byte → Nat
  | a :: b :: t => 256 * a.toNat + b.toNat + wordSum t
  | [a] => 256 * a.toNat
  | [] => 0

/-- The UDP checksum of a datagram: the complement of the one's-complement sum over pseudo-header, UDP header and data (R377). -/
def udpChecksum (src dst srcPort dstPort : Nat) (data : List Byte) : Nat :=
  let addr (a : Nat) : Nat := if a / 2 ^ 32 = 0xFFFF then a % 2 ^ 32 else a
  let n := 8 + data.length
  65535 - (addr src + addr dst + 17 + n + srcPort + dstPort + n + wordSum data) % 65535

/-- The 24-byte header and the payload of a Quayline datagram (Table 11.2). -/
def quayBytes (f type flags psn ack session : Nat) (payload : List Byte) : List Byte :=
  toLE 1 type ++ toLE 1 f ++ toLE 1 flags ++ toLE 1 1 ++ toLE 4 psn ++ toLE 4 ack ++ toLE 4 session ++ toLE 2 payload.length ++
    toLE 6 0 ++ payload

/-- The tag of every frame that the quay port sends (R376). -/
def vlanTag (c : Chip) : Option (Nat × Nat) :=
  if c.regField R.quaNet 14 1 = 1 then some (c.regField R.quaNet 15 12, c.regField R.quaNet 27 3) else none

/-- The package's address of a peer's family. -/
def ownFor (c : Chip) (dst : Nat) : Nat :=
  if dst / 2 ^ 32 = 0xFFFF then 0xFFFF * 2 ^ 32 + c.regField R.quaIp4 0 32
  else (c.reg R.quaIp6Lo).toNat + (c.reg R.quaIp6Hi).toNat * 2 ^ 64

/-- A Quayline packet to the peer that a flow is bound to, in its frame: R376, R377, R380 and R384 say what it carries. -/
def packet (c : Chip) (f type flags psn ack session : Nat) (payload : List Byte) : Out :=
  let fl := c.flow f
  let src := c.ownFor fl.peerAddr
  let own := c.regField R.quaNet 32 16
  .quay { dstMac := some fl.peerMac, srcMac := c.fuses.mac, tag := c.vlanTag, src := src, dst := fl.peerAddr, ttl := 64,
          dontFragment := fl.peerAddr / 2 ^ 32 = 0xFFFF, ecn := 2, srcPort := own, dstPort := fl.hostPort,
          udpSum := udpChecksum src fl.peerAddr own fl.hostPort (quayBytes f type flags psn ack session payload) }
    f type flags psn ack session payload

/-- A packet leaves by the quay port, or waits while its priority is paused (R376). -/
def quayOut (c : Chip) (o : Out) : Chip :=
  if c.quay.paused then { c with quay := { c.quay with held := c.quay.held ++ [o] } } else c.out o

/-- Put a sequenced packet on the wire with the flow's next psn. -/
def sendNow (c : Chip) (f type : Nat) (payload : List Byte) : Chip :=
  let fl := c.flow f
  let c := c.setFlow f fun fl =>
    { fl with txNext := (fl.txNext + 1) % 2 ^ 32, ackDue := false,
              unacked := fl.unacked ++
                [{ psn := fl.txNext, type := type, payload := payload, tick := c.tide, retx := false }] }
  (c.quayOut (c.packet f type 0 fl.txNext fl.rxNext fl.session payload)).addField R.quaPkts 32 32 1

/-- Send a sequenced packet on an OPEN flow: at once where the send window has room, else once acknowledgements make it
(R383, R384). A flow that is CLOSED or LOST sends nothing. -/
def send (c : Chip) (f type : Nat) (payload : List Byte) : Chip :=
  let fl := c.flow f
  if fl.state ≠ 1 then c
  else if fl.unacked.length < min 256 fl.window && fl.backlog.isEmpty then c.sendNow f type payload
  else c.setFlow f fun fl => { fl with backlog := fl.backlog ++ [(type, payload)] }

/-- Send an unsequenced packet on an OPEN flow. -/
def sendBare (c : Chip) (f type flags : Nat) (payload : List Byte) : Chip :=
  let fl := c.flow f
  if fl.state ≠ 1 then c
  else (c.quayOut (c.packet f type flags 0 fl.rxNext fl.session payload)).addField R.quaPkts 32 32 1

end Chip

/-! ### CRCs (R225, Table 06.15) -/

/-- One reflected CRC step of a byte; `poly` is the reflected polynomial. -/
def crcReflByte (poly state x : Nat) : Nat :=
  (List.range 8).foldl (fun s _ => if s % 2 = 1 then (s / 2) ^^^ poly else s / 2) (state ^^^ x)

/-- One step of CRC-16/CCITT, not reflected. -/
def crc16Byte (state x : Nat) : Nat :=
  (List.range 8).foldl (fun s _ => if 32768 ≤ s then ((s * 2) ^^^ 0x1021) % 65536 else s * 2) (state ^^^ (x * 256))

def poly32 : Nat := 0xEDB88320
def poly32c : Nat := 0x82F63B78
def poly64 : Nat := 0xC96C5795D7870F42

/-- A byte into the running state of polynomial `p` of Table 06.15. -/
def crcByte (p state x : Nat) : Nat :=
  match p with
  | 0 => crcReflByte poly32 state x
  | 1 => crcReflByte poly32c state x
  | 2 => crcReflByte poly64 state x
  | _ => crc16Byte state x
def crcInit (p : Nat) : Nat := if p = 2 then 2 ^ 64 - 1 else if p = 3 then 0xFFFF else 2 ^ 32 - 1
def crcXor (p : Nat) : Nat := if p = 2 then 2 ^ 64 - 1 else if p = 3 then 0 else 2 ^ 32 - 1
def crcRun (p state : Nat) (l : List Byte) : Nat := l.foldl (fun s b => crcByte p s b.toNat) state
/-- The CRC of a byte list. -/
def crc (p : Nat) (l : List Byte) : Nat := crcRun p (crcInit p) l ^^^ crcXor p
def crc64 (l : List Byte) : Nat := crc 2 l
def crc32c (l : List Byte) : Nat := crc 1 l

/-- Status codes (Table 11.5). -/
inductive Status where
  | ok | pending | badOpcode | badParam | notInState | contract | busy | hold | drained | authFail
  deriving DecidableEq, Repr

def Status.code : Status → Nat
  | .ok => 0
  | .pending => 1
  | .badOpcode => 0x10
  | .badParam => 0x11
  | .notInState => 0x12
  | .contract => 0x13
  | .busy => 0x20
  | .hold => 0x30
  | .drained => 0x31
  | .authFail => 0x40

/-- The command packet of a reply (Table 11.4): flags [1] reply, [2] final. -/
def replyPacket (h : Hdr) (opcode : Nat) (st : Status) (tick : Nat) (body : List Byte) : List Byte :=
  let flags := h.pkg.toNat + 2 + (if st = .pending then 0 else 4)
  let b := toLE 4 0x444D4351 ++ toLE 1 1 ++ toLE 1 flags ++ toLE 2 opcode ++ toLE 4 h.seq ++ toLE 1 h.basin ++
    toLE 1 st.code ++ toLE 2 0 ++ toLE 4 body.length ++ toLE 4 0 ++ toLE 8 tick ++ body
  b ++ toLE 4 (crc32c b)

namespace Chip

/-- Enter a final outcome in the command log (R412; Table 11.21) and count it completed. -/
def logCmd (c : Chip) (h : Hdr) (opcode : Nat) (st : Status) : Chip :=
  let i := c.regField R.seqCmdPtr 0 6
  let c := c.put (R.seqCmdLog i) (packF [(0, 1, 1), (1, 4, h.flow), (5, 16, opcode), (21, 8, st.code), (29, 2, h.basin),
    (31, 1, h.pkg.toNat), (32, 32, h.seq)])
  let c := (c.setField R.seqCmdPtr 0 6 ((i + 1) % 64)).addField R.seqCmdPtr 32 32 1
  { c with quay := { c.quay with completed := c.quay.completed + 1 } }

/-- Send the reply of a command; one with a final status is logged (R389, R392, R412). TELEMETRY counts INTEGRITY_HOLD replies (R444). -/
def reply (c : Chip) (h : Hdr) (opcode : Nat) (st : Status) (body : List Byte) : Chip :=
  let c := c.send h.flow 2 (replyPacket h opcode st c.tide body)
  let c := if st = .hold then { c with pilot := { c.pilot with holds := c.pilot.holds + 1 } } else c
  if st = .pending then c else c.logCmd h opcode st

/-- Reply ACCEPTED_PENDING and hold the command pending (R394). -/
def hold (c : Chip) (h : Hdr) (opcode : Nat) : Chip :=
  let c := c.reply h opcode .pending []
  { c with quay := { c.quay with cmds := c.quay.cmds ++ [{ h := h, opcode := opcode, session := (c.flow h.flow).session }] } }

/-- The final reply of a pending command; after an OPEN of another session it is logged alone (R380) (log entry 48, DEDUCED). -/
def replyTo (c : Chip) (p : PendCmd) (st : Status) (body : List Byte) : Chip :=
  if (c.flow p.h.flow).session = p.session then c.reply p.h p.opcode st body else c.logCmd p.h p.opcode st

/-- The pending commands of an opcode that name a basin. -/
def pendingFor (c : Chip) (opcode b : Nat) : List PendCmd :=
  c.quay.cmds.filter fun p => p.opcode = opcode && (p.h.pkg || p.h.basin = b)

/-- Send the final reply of every pending command of an opcode that names a basin. -/
def finish (c : Chip) (opcode b : Nat) (st : Status) (body : List Byte) : Chip :=
  let l := c.pendingFor opcode b
  let c := { c with quay := { c.quay with cmds := c.quay.cmds.filter fun p => !l.contains p } }
  l.foldl (fun c p => c.replyTo p st body) c

/-- Send the final reply of every pending command of a package-wide opcode. -/
def finishAll (c : Chip) (opcode : Nat) (st : Status) (body : List Byte) : Chip :=
  let l := c.quay.cmds.filter fun p => p.opcode = opcode
  let c := { c with quay := { c.quay with cmds := c.quay.cmds.filter fun p => p.opcode ≠ opcode } }
  l.foldl (fun c p => c.replyTo p st body) c

/-- Set flags of TID_BASIN_TIMING_b, and broken with them (Table 07.21). -/
def timing (c : Chip) (b bit : Nat) : Chip := (c.setField (R.tidBasinTiming b) bit 1 1).setField (R.tidBasinTiming b) 0 1 1

end Chip
end Sys2Proof.Machine
end

