-- ==== Sys2Proof/Machine/Rng.lean ====
section
/-! DEFINITION. The Tuird generator (R284 to R288): every draw is a pure function of the seed, the step and its position. -/

namespace Sys2Proof.Machine

abbrev U32 := BitVec 32

/-- The four words of a draw in progress. -/
structure Quad where
  a : U32
  b : U32
  c : U32
  d : U32
  deriving DecidableEq, Repr

/-- Word `i` modulo 4. -/
def Quad.at (q : Quad) (i : Nat) : U32 :=
  match i % 4 with
  | 0 => q.a
  | 1 => q.b
  | 2 => q.c
  | _ => q.d

/-- One round of R285: key words rotated by the round number, the round constant, and four add-rotate-xor steps. -/
def tuirdRound (k x : Quad) (r : Nat) : Quad :=
  let x0 := x.a + k.at r + 0x6A3DC1B5#32 * BitVec.ofNat 32 (r + 1)
  let x1 := x.b + k.at (1 + r)
  let x2 := x.c + k.at (2 + r)
  let x3 := x.d + k.at (3 + r)
  let x0 := x0 + x1
  let x3 := (x3 ^^^ x0).rotateLeft 13
  let x2 := x2 + x3
  let x1 := (x1 ^^^ x2).rotateLeft 17
  let x0 := x0 + x1
  let x3 := (x3 ^^^ x0).rotateLeft 5
  let x2 := x2 + x3
  let x1 := (x1 ^^^ x2).rotateLeft 11
  { a := x0, b := x1, c := x2, d := x3 }

/-- Ten rounds from the counter words, and the counter words added back (R285). -/
def tuirdCore (k c : Quad) : Quad :=
  let x := foldN 10 (tuirdRound k) c
  { a := x.a + c.a, b := x.b + c.b, c := x.c + c.c, d := x.d + c.d }

/-- The key words of a seed and a step (R284, R285). -/
def tuirdKey (seed step : Nat) : Quad :=
  { a := BitVec.ofNat 32 (bits seed 0 32) ^^^ BitVec.ofNat 32 (bits step 0 32),
    b := BitVec.ofNat 32 (bits seed 32 32) ^^^ BitVec.ofNat 32 (bits step 32 32),
    c := BitVec.ofNat 32 (bits seed 64 32), d := BitVec.ofNat 32 (bits seed 96 32) }

/-- The counter words of a consumer (Table 08.1). -/
def tuirdCounter (stream rank launch core lane index : Nat) : Quad :=
  { a := BitVec.ofNat 32 (bits index 0 32), b := BitVec.ofNat 32 (bits index 32 32),
    c := BitVec.ofNat 32 (lane % 512 + (core % 64) * 2 ^ 9 + (rank % 256) * 2 ^ 15 + (launch % 256) * 2 ^ 23),
    d := BitVec.ofNat 32 (stream % 256) }

/-- tuird_draw of R285, 128 bits. -/
def tuirdDraw (seed step stream rank launch core lane index : Nat) : Nat :=
  let q := tuirdCore (tuirdKey seed step) (tuirdCounter stream rank launch core lane index)
  q.a.toNat + q.b.toNat * 2 ^ 32 + q.c.toNat * 2 ^ 64 + q.d.toNat * 2 ^ 96

/-- The probe's draw: step and whole counter words as written (R288). -/
def tuirdProbe (seed step c01 c23 : Nat) : Nat :=
  let q := tuirdCore (tuirdKey seed step)
    { a := BitVec.ofNat 32 (bits c01 0 32), b := BitVec.ofNat 32 (bits c01 32 32),
      c := BitVec.ofNat 32 (bits c23 0 32), d := BitVec.ofNat 32 (bits c23 32 32) }
  q.a.toNat + q.b.toNat * 2 ^ 32 + q.c.toNat * 2 ^ 64 + q.d.toNat * 2 ^ 96

/-- What the draws of one core hold fixed (R284). -/
structure DrawCtx where
  key : Quad
  rank : Nat
  launch : Nat
  core : Nat
  deriving DecidableEq, Repr

/-- The low 16 bits of a draw: U of R76. -/
def DrawCtx.u (d : DrawCtx) (stream lane index : Nat) : Nat :=
  (tuirdCore d.key (tuirdCounter stream d.rank d.launch d.core lane index)).a.toNat % 2 ^ 16

namespace Chip

/-- The generator seed of a core's sett (R287). -/
def seedOf (c : Chip) (sett : Nat) : Nat := (c.reg (R.rngSeedLo sett)).toNat + (c.reg (R.rngSeedHi sett)).toNat * 2 ^ 64

/-- The draw context of a core. -/
def drawCtx (c : Chip) (core : Nat) : DrawCtx :=
  let s := core / 2
  let b := c.basinOfCore core
  { key := tuirdKey (c.seedOf s) (c.reg (R.seqStep b)).toNat, rank := c.regField (R.rngIdent s) 0 8,
    launch := c.regField (R.rngIdent s) 8 8, core := core - c.firstCore b }

/-- Count draws a core consumed (RNG_DRAWS_k). -/
def countDraws (c : Chip) (core n : Nat) : Chip := if n = 0 then c else c.addField (R.rngDraws core) 0 64 n

end Chip
end Sys2Proof.Machine
end

