-- ==== Sys2Proof/Machine/Operands.lean ====
section
/-! DEFINITION. Operand forms of the units: bundle slots and descriptor reads (R243, R200), accesses to a core's own scratch
(R89), packed tensors (R52, R53), and conversion of a row of outputs into its storage format (R72 to R79, R473). -/

namespace Sys2Proof.Machine

/-! ### Packed elements -/

/-- Elements of `w` bits in `n` places of a byte list, from bit 0 (R52). -/
def unpackAll (w n : Nat) (l : List Byte) : List Nat :=
  let x := fromLE l
  tabulate n fun i => bits x (w * i) w

/-- Whether any byte that element `i` of width `w` touches is poisoned. -/
def eltPoison (w i : Nat) (l : List PByte) : Bool :=
  dirty ((l.drop (w * i / 8)).take ((w * i + w - 1) / 8 - w * i / 8 + 1))

/-- Bytes of a packed run of elements, each with its poison. -/
def packElts (w : Nat) (l : List (Nat × Bool)) : List PByte :=
  let data := packBits w (l.map Prod.fst)
  if l.any Prod.snd then
    (data.zip (List.range data.length)).map fun p =>
      if (l.drop (8 * p.2 / w)).take ((8 * p.2 + 7) / w - 8 * p.2 / w + 1) |>.any Prod.snd then none else some p.1
  else clean data

/-! ### Conversion of a run of outputs -/

/-- A converted run: elements (none where nothing is written), scale bytes of its blocks, saturations, the indices that charge
OVERFLOW, and those that first-position records name for overflow in either mode (R77). -/
structure Converted where
  elts : List (Option (Nat × Bool))
  scales : List (Option (Nat × Bool))
  sat : Nat
  ovf : List Nat
  beyond : List Nat
  deriving DecidableEq, Repr

/-- Whether stochastic mode acts on a conversion into a format (Table 02.18). -/
def stochActs (f : Fmt) (r : Rnd) : Bool := r.stoch && (f.isLog || f == .bf16)

/-- Convert one element of an unblocked format. -/
def convOne (f : Fmt) (r : Rnd) (u : Option Nat) (v : Val) : ConvElt :=
  if f.isLog then convLog f r u v else convLinear f r u v

/-- Convert one block of up to 32 lanes (R75, R473): not written without an active lane, whole poisoned with a poisoned one,
code zero at inactive lanes. The block's overflow stands at its first overflowing element (R77). -/
def convGroup (f : Fmt) (r : Rnd) (us : List (Option Nat)) (vs : List Src) : Converted :=
  if vs.any (· == .bad) then { elts := vs.map fun _ => some (0, true), scales := [some (0, true)], sat := 0, ovf := [], beyond := [] }
  else if vs.all (· == .off) then { elts := vs.map fun _ => none, scales := [none], sat := 0, ovf := [], beyond := [] }
  else
    let x := convBlock f r us (vs.map fun s => match s with
      | .val v => some v
      | _ => none)
    let first (p : ConvElt → Bool) : List Nat := (((x.2.zip (List.range x.2.length)).filter fun e => p e.1).map Prod.snd).take 1
    { elts := x.2.map fun e => some (e.code, false), scales := [some (x.1, false)], sat := if x.2.any ConvElt.sat then 1 else 0,
      ovf := first ConvElt.ovf, beyond := first fun e => e.ovf || e.sat }

/-- Convert a run of lanes that starts on a block boundary; `us` are the draws of its lanes, `ls` the layer scale exponent
(R79). -/
def convRun (f : Fmt) (r : Rnd) (ls : Int) (us : List (Option Nat)) (vs : List Src) : Converted :=
  let vs := if f.isLog && ls != 0 then vs.map fun s => match s with
      | .val v => .val (v.scale ls)
      | s => s
    else vs
  if f.isBlock then
    let gs := (chunks 32 (us.zip vs)).map fun g => convGroup f r (g.map Prod.fst) (g.map Prod.snd)
    let places (f : Converted → List Nat) : List Nat := (gs.zip (List.range gs.length)).flatMap fun p => (f p.1).map (· + 32 * p.2)
    { elts := gs.flatMap Converted.elts, scales := gs.flatMap Converted.scales, sat := sumN (gs.map Converted.sat),
      ovf := places Converted.ovf, beyond := places Converted.beyond }
  else
    let es := (us.zip vs).map fun p => match p.2 with
      | .val v => (some ((convOne f r p.1 v).code, false), convOne f r p.1 v)
      | .off => (none, { code := 0 })
      | .bad => (some (0, true), { code := 0 })
    let places (f : ConvElt → Bool) : List Nat := ((es.zip (List.range es.length)).filter fun p => f p.1.2).map Prod.snd
    { elts := es.map Prod.fst, scales := [], sat := (es.filter fun e => e.2.sat).length, ovf := places ConvElt.ovf,
      beyond := places fun e => e.ovf || e.sat }

namespace Chip

/-! ### A core's own scratch (R89, R47) -/

/-- First basin address of a core's scratch slot. -/
def nearBase (c : Chip) (core : Nat) : Nat := 0x20000000000 + (core - c.firstCore (c.basinOfCore core)) * 0x4000000

/-- Whether a basin address lies in the core's own scratch. -/
def isNear (c : Chip) (core a : Nat) : Bool := c.nearBase core ≤ a && a < c.nearBase core + 0x3000000

/-- The device address of a basin address in the core's own scratch. -/
def nearDev (c : Chip) (core a : Nat) : Nat := a - c.nearBase core + scratchBase core

/-- The first of `n` addresses from `a` that is not in the core's own scratch. -/
def firstFar (c : Chip) (core a n : Nat) : Option Nat := ((List.range n).find? fun i => !c.isNear core (a + i)).map (a + ·)

/-- Whether all of `n` addresses from `a` are in the core's own scratch. -/
def allNear (c : Chip) (core a n : Nat) : Bool := c.nearBase core ≤ a && a + n ≤ c.nearBase core + 0x3000000

end Chip

/-- An agent's place in the order of Table 06.7: its code, then the engine or write path within it. The arrays of a core are one
agent, whichever array reads or commits (log entry 32, DEDUCED). -/
def agentRank (agent : Nat) : Nat :=
  let code := agent % 16
  8 * code + if code = 0 || code = 4 then 0 else agent / 16
/-- The bank of a scratch address (R208). -/
def bankOf (a : Nat) : Nat := a / 128 % 64

namespace Chip

def setNow (c : Chip) (core : Nat) (f : Now → Now) : Chip := c.setCore core fun k => { k with now := f k.now }

/-- Name the operation at work within a unit. -/
def acting (c : Chip) (core op : Nat) : Chip := c.setNow core fun w => { w with op := op, part := 0 }
/-- Name its lane-vector or row. -/
def atPart (c : Chip) (core n : Nat) : Chip := c.setNow core fun w => { w with part := n }

/-- Whether an agent loses the bank of an address in the present cycle (R209). -/
def losesBank (c : Chip) (core agent a : Nat) : Bool :=
  (c.core core).now.wins.any fun w => w.1 = bankOf a && w.2 < agentRank agent

/-- Note an access to the core's own scratch, as far as it lies there. -/
def access (c : Chip) (core agent : Nat) (write : Bool) (a n : Nat) : Chip :=
  let lo := max a (c.nearBase core)
  let hi := min (a + n) (c.nearBase core + 0x3000000)
  if hi ≤ lo then c
  else c.setNow core fun w =>
    let x : Access := { agent := agent, write := write, addr := c.nearDev core lo, n := hi - lo, op := w.op, part := w.part }
    { w with log := w.log ++ [x] }

/-- What a unit sees in its core's own scratch: poison outside it, zero in a bank that it loses. -/
def nearPeek (c : Chip) (core agent a n : Nat) : List PByte :=
  let l := if c.allNear core a n then c.peek (c.nearDev core a) n
    else (List.range n).flatMap fun i => if c.isNear core (a + i) then c.peek (c.nearDev core (a + i)) 1 else [none]
  if (c.core core).now.wins.isEmpty then l
  else (l.zip (List.range n)).map fun x => if c.isNear core (a + x.2) && c.losesBank core agent (a + x.2) then some 0 else x.1

/-- A read of the core's own scratch: the access, and the code events of the words that lie there, but those of a bank that the agent
loses, which are not read (R208, R209). -/
def nearWords (c : Chip) (core agent a n : Nat) : Chip :=
  let c := c.access core agent false a n
  let lo := max a (c.nearBase core)
  let hi := min (a + n) (c.nearBase core + 0x3000000)
  (unitsOf (c.nearDev core lo) (hi - lo)).foldl (fun c u => if c.losesBank core agent u then c else c.noteUnit core u) c

/-- ADDR_UNMAPPED at the first address of an access that is not in the core's own scratch (R39). -/
def nearUnmapped (c : Chip) (core agent a n : Nat) : Chip :=
  if c.allNear core a n then c
  else match c.firstFar core a n with
    | some x => c.report core 2 (agent % 16) x
    | none => c

/-- The first poisoned byte of an access that lies in the core's own scratch; of one that lies there whole, its first address. -/
def firstBad (c : Chip) (core a : Nat) (l : List PByte) : Option Nat :=
  if c.allNear core a l.length then (if dirty l then some a else none)
  else ((l.zip (List.range l.length)).find? fun p => p.1 == none && c.isNear core (a + p.2)).map fun p => a + p.2

/-- A poisoned access to own scratch is reported (R201). -/
def nearPoison (c : Chip) (core kind agent a : Nat) (l : List PByte) : Chip :=
  match c.firstBad core a l with
  | some x => c.report core kind (agent % 16) x
  | none => c

/-- What a read of the core's own scratch records: the access, code events, ADDR_UNMAPPED, and one poisoned read (R201, R39); of the
arrays ADDR_UNMAPPED names the agent code alone (log entry 70, DESIGN CHOICE). -/
def nearNote (c : Chip) (core agent a n : Nat) : Chip :=
  let l := c.nearPeek core agent a n
  ((c.nearWords core agent a n).nearUnmapped core agent a n).nearPoison core 0 agent a l

/-- Queue bytes that lie in the core's own scratch, line by line, but those of a bank that the agent loses. -/
def queueWrite (c : Chip) (core agent d : Nat) (bytes : List PByte) : Chip :=
  let wins := (c.core core).now.wins
  if wins.isEmpty then c.setNow core fun w => { w with queue := w.queue ++ [(d, bytes)] }
  else
    let n := bytes.length
    let parts := (List.range ((d + n + 127) / 128 - d / 128)).filterMap fun i =>
      let lo := max d ((d / 128 + i) * 128)
      let hi := min (d + n) ((d / 128 + i + 1) * 128)
      if c.losesBank core agent lo || hi ≤ lo then none else some (lo, (bytes.drop (lo - d)).take (hi - lo))
    c.setNow core fun w => { w with queue := w.queue ++ parts }

/-- Write to the core's own scratch: the bytes land at the end of the cycle; those outside it are dropped with an ADDR_UNMAPPED
record; a poisoned write is reported (R39, R201). -/
def nearWrite (c : Chip) (core agent a : Nat) (bytes : List PByte) : Chip :=
  let n := bytes.length
  let c := c.access core agent true a n
  if c.allNear core a n then
    (c.queueWrite core agent (c.nearDev core a) bytes).nearPoison core 1 agent a bytes
  else
    let c := (c.nearUnmapped core agent a n).nearPoison core 1 agent a bytes
    (bytes.zip (List.range n)).foldl (fun c p =>
      if c.isNear core (a + p.2) then c.queueWrite core agent (c.nearDev core (a + p.2)) [p.1] else c) c

/-- The cycle's writes land, words of which they write a part read first (R198, R208). -/
def landWrites (c : Chip) (core : Nat) : Chip :=
  ((c.core core).now.queue.foldl (fun c w => (c.noteMerges core w.1 w.2.length).poke w.1 w.2) c).setNow core fun w => { w with queue := [] }

/-! ### Descriptors (R243, R200) -/

/-- A descriptor of `n` bytes by its index: none where any byte is poisoned or unmapped (log entry 39, DEDUCED). -/
def descBytes (c : Chip) (core agent idx n : Nat) : Option (List Byte) :=
  let l := c.nearPeek core agent (c.nearBase core + 64 * idx) n
  if dirty l then none else some (plain l)

/-- What reading `n` bytes of descriptors from an index records, POISON_DESC apart. -/
def descRead (c : Chip) (core agent idx n : Nat) : Chip :=
  let a := c.nearBase core + 64 * idx
  (c.nearWords core agent a n).nearUnmapped core agent a n

/-- What reading a descriptor records: the access, code events, and POISON_DESC where it is poisoned. -/
def descNote (c : Chip) (core agent idx n : Nat) : Chip :=
  (c.descRead core agent idx n).reportIf (c.descBytes core agent idx n).isNone core 3 agent (c.nearBase core + 64 * idx)

/-! ### Unit events -/

/-- A schedule error of a unit whose event register and flag are given: the flag, and the audit trap 0x0A (R274). -/
def schedErr (c : Chip) (core events flag slot : Nat) : Chip := (c.event events flag).auditTrap core 0x0A slot

/-- Saturation events of a unit (R78): its saturation flag and the launch's count. -/
def saturate (c : Chip) (core events flag n : Nat) : Chip :=
  if n = 0 then c else (c.events events flag n).setCore core fun k => { k with sat := satAdd 32 k.sat n }

/-- The layer scale exponent a conversion that begins now takes: entry `layer` of the table in force, none named gives 0 (R79,
R181). -/
def layerScale (c : Chip) (core layer : Nat) (en : Bool) : Int :=
  if en then signed 8 ((c.core core).lsTable.getD layer 0) else 0

end Chip
end Sys2Proof.Machine
end

