-- ==== Sys2Proof/Machine/Far.lean ====
section
/-! DEFINITION. Far accesses: DRAM, pinned ways and the host-memory window by basin address (R210, R385 to R388), the moored
regions that guard writes (R351, R352), and the harbour cache ways (R218 to R222). -/

namespace Sys2Proof.Machine

/-- A piece of a far access: basin address and length, within one 128-byte line. -/
structure Piece where
  a : Nat
  n : Nat
  deriving DecidableEq, Repr

/-- Cut `n` bytes from an address at line boundaries. -/
def piecesOf (a n : Nat) : List Piece :=
  if n = 0 then [] else
  tabulate ((a + n - 1) / 128 - a / 128 + 1) fun i =>
    let l := (a / 128 + i) * 128
    let lo := max a l
    { a := lo, n := min (a + n) (l + 128) - lo }

/-- Whether a basin address names the host-memory window (Table 01.6). -/
def isWindow (a : Nat) : Bool := 0x100000000000 ≤ a && a < 0x1000000000000

namespace Chip

/-- The device address of a far address of a basin: DRAM, pinned ways, or the window where an aperture serves it; none
where it is unmapped, core scratch included (R39, R210, R385). -/
def farMap (c : Chip) (b a : Nat) : Option Nat :=
  if isWindow a then (c.aperture b a).map fun _ => a
  else match c.relocate b a with
    | some d => if isScratch d then none else some d
    | none => none

def hostByte (c : Chip) (h : Nat) : Byte := Sparse.get Mem.byteDefault c.host h
/-- Store bytes in host memory. -/
def hostStore (c : Chip) : Nat → List Byte → Chip
  | _, [] => c
  | h, x :: t => hostStore { c with host := Sparse.set Mem.byteDefault c.host (h % 2 ^ 64) x } (h + 1) t

/-- What a reader of a far piece sees. -/
def farPiece (c : Chip) (b : Nat) (p : Piece) : List PByte :=
  if isWindow p.a then
    match c.aperture b p.a with
    | some (_, h) => if Sparse.get Mem.falseDefault c.hostBad (h / 128) then List.replicate p.n none
      else clean (tabulate p.n fun i => c.hostByte ((h + i) % 2 ^ 64))
    | none => List.replicate p.n none
  else match c.farMap b p.a with
    | some d => c.peek d p.n
    | none => List.replicate p.n none

/-- What a far read delivers: poison where nothing is mapped. -/
def farPeek (c : Chip) (b a n : Nat) : List PByte := (piecesOf a n).flatMap (c.farPiece b)

/-! ### Harbour cache ways (R218 to R222) -/

/-- Whether a DRAM device address lies in an enabled cache range of its stack (R220, Table 06.27). -/
def inCacheRange (c : Chip) (d : Nat) : Bool :=
  let s := d / stackSize
  let u := (d - s * stackSize) / 0x200000
  (List.range 8).any fun r =>
    let v := c.reg (R.memCacheRange s r)
    fbit v 0 && fget v 1 16 ≤ u && u ≤ fget v 17 16

/-- The home harbour die of a cacheable line for a requesting basin (R220). -/
def homeDie (c : Chip) (b d : Nat) : Nat :=
  if isWindow d then 20 + 4 * c.firstRow b + bits d 7 2 else 20 + 4 * (d / stackSize / 5) + bits d 7 2

/-- Whether a line may be held in the cache ways: DRAM in a cache range, or a window line of a stream whose cache bit is set (R220). -/
def cacheable (c : Chip) (d : Nat) (cache : Bool) : Bool :=
  if isWindow d then cache else d < 20 * stackSize && c.inCacheRange d

/-- Whether a core's read of a line goes by its home die: its own stack's controller it reads directly (Table 06.12). -/
def byHome (c : Chip) (core d : Nat) (cache : Bool) : Bool := c.cacheable d cache && !(d < 20 * stackSize && d / stackSize == core / 2)

/-- The way a new line takes: the lowest free cache way of its set, else the least recently used line's (R221). -/
def victim (c : Chip) (die line : Nat) : Nat × List CacheLine :=
  let same := c.fab.cache.filter fun l => l.die = die && bits l.line 9 16 = bits line 9 16
  let p := c.pinnedWays die
  match ((List.range (24 - p)).map (· + p)).find? fun w => !same.any fun l => l.way = w with
  | some w => (w, c.fab.cache)
  | none => match same.getLast? with
    | some l => (l.way, c.fab.cache.filter fun x => x != l)
    | none => (24, c.fab.cache)

def setCache (c : Chip) (l : List CacheLine) : Chip := { c with fab := { c.fab with cache := l } }

/-- The copy of a line in its home die's cache ways. -/
def wayLine (c : Chip) (die line : Nat) : Option CacheLine := c.fab.cache.find? fun l => l.die = die && l.line = line

/-- Allocate a line in its home die's cache ways (R221); with no cache way, nothing. -/
def allocate (c : Chip) (die line : Nat) (data : List PByte) : Chip :=
  if (c.wayLine die line).isSome then c else
  let v := c.victim die line
  if v.1 = 24 then c else c.setCache ({ die := die, way := v.1, line := line, data := data, err := [] } :: v.2)

/-- The decode of a cache-way line by its harbour die, under the limit of the stack it belongs to (R195, R223). -/
def wayDecode (c : Chip) (l : CacheLine) : Code × Errors := decodeLine l.err (dirty l.data) (c.tmax l.line)

/-- The line as its die delivers it. -/
def waySeen (c : Chip) (l : CacheLine) : List PByte :=
  (l.data.zip (List.range 128)).map fun x => x.1.map (· ^^^ (c.wayDecode l).2.byte x.2)

/-- The copy that serves a core's read of a line: one that its die can deliver (R221, R223). -/
def served (c : Chip) (core b d : Nat) (cache : Bool) : Option CacheLine :=
  let line := d / 128 * 128
  if c.byHome core line cache then (c.wayLine (c.homeDie b line) line).filter fun l => (c.wayDecode l).1 != .bad else none

/-- A read that its home die passes on to the stack or the quay: a DRAM line is allocated where the stream's cache bit is set, a
window line when its data comes (R221, Table 06.29). -/
def missLine (c : Chip) (die line : Nat) (cache : Bool) : Chip :=
  let c := c.addField (R.hbcTraffic die) 32 32 1
  if cache && !isWindow line then c.allocate die line (c.peek line 128) else c

/-- A demand read of one line by its home die: hits and misses counted, recency updated, a copy corrected in place, one that cannot
be corrected dropped and the line read from the stack (R221, R223, Table 06.29) (log entry 67, DESIGN CHOICE). -/
def demandLine (c : Chip) (core b d : Nat) (cache : Bool) : Chip :=
  let line := d / 128 * 128
  if !c.byHome core line cache then c else
  let die := c.homeDie b line
  match c.wayLine die line with
  | none => c.missLine die line cache
  | some l =>
    let rest := c.fab.cache.filter fun x => x != l
    match (c.wayDecode l).1 with
    | .bad => ((c.setCache rest).event (R.hbcEvents die) 1).missLine die line cache
    | code =>
      let c := if code == .corrected then c.event (R.hbcEvents die) 0 else c
      (c.setCache ({ l with data := c.waySeen l, err := [] } :: rest)).addField (R.hbcTraffic die) 0 32 1

/-- Prefetch one line: its home die queues it, or drops it with 256 in its queue (R222). -/
def prefetchLine (c : Chip) (core b d : Nat) (cache : Bool) : Chip :=
  let line := d / 128 * 128
  if !c.cacheable line cache then c
  else
    let die := c.homeDie b line
    if 256 ≤ (c.fab.prefetch.filter fun x => x.1 = die).length then c.event (R.hbcEvents die) 2
    else { c with fab := { c.fab with prefetch := c.fab.prefetch ++ [(die, line, core)] } }

/-- Drop cache-way lines (R219, R221). -/
def dropLines (c : Chip) (f : CacheLine → Bool) : Chip :=
  { c with fab := { c.fab with cache := c.fab.cache.filter fun l => !f l } }

/-! ### Far reads -/

/-- Whether a far piece comes from pinned ways, whose lines cross the mesh with a CRC of their own (R37). -/
def fromPinned (c : Chip) (b : Nat) (p : Piece) : Bool :=
  match (c.farMap b p.a).map c.region with
  | some (.pinned _ _) => true
  | _ => false

/-- What a core sees of a far piece: the copy that serves it, or what is stored; poison where the mesh broke it (R37). -/
def farSees (c : Chip) (core b : Nat) (cache : Bool) (p : Piece) : List PByte :=
  match (c.farMap b p.a).bind fun d => c.served core b d cache with
  | some l => ((c.waySeen l).drop (p.a % 128)).take p.n
  | none => if c.fromPinned b p && c.meshBroken core then List.replicate p.n none else c.farPiece b p

/-- A flit of pinned ways that the mesh broke on its way to a core raises MESH_CRC (R37). -/
def meshRead (c : Chip) (core b : Nat) (p : Piece) : Chip := if c.fromPinned b p && c.meshBroken core then c.meshFault core else c

/-- Bytes on their way to a far address: to pinned ways they may break on the mesh, which poisons them and raises MESH_CRC at the
harbour die (R37). -/
def meshWrite (c : Chip) (d : Nat) (bytes : List PByte) : Chip × List PByte :=
  match c.region d with
  | .pinned h _ => if c.meshBroken (h + 20) then (c.meshFault (h + 20), List.replicate bytes.length none) else (c, bytes)
  | _ => (c, bytes)

/-- What a core sees of a far range. -/
def farSeen (c : Chip) (core b : Nat) (cache : Bool) (a n : Nat) : List PByte := (piecesOf a n).flatMap (c.farSees core b cache)

/-- What reading a far piece records: code events, a poisoned read, cache traffic. -/
def farNotePiece (c : Chip) (core b agent : Nat) (cache : Bool) (p : Piece) : Chip :=
  match c.farMap b p.a with
  | none => c
  | some d =>
    let bad := dirty (c.farSees core b cache p)
    let near := (c.served core b d cache).isSome || isWindow d
    let c := c.demandLine core b d cache
    ((if near then c else c.noteRead core d p.n).meshRead core b p).reportIf bad core 0 agent p.a

/-- Whether a read of a far piece waits: its stack's controller is in a window, and no copy serves it (R203). -/
def closedTo (c : Chip) (core b : Nat) (cache : Bool) (p : Piece) : Bool :=
  match c.farMap b p.a with
  | some d => d < 20 * stackSize && 0 < (c.win (d / stackSize)).left && (c.served core b d cache).isNone
  | none => false

/-- The first unmapped address of a far access. -/
def firstUnmapped (c : Chip) (b a n : Nat) : Option Nat :=
  ((piecesOf a n).find? fun p => (c.farMap b p.a).isNone).map Piece.a

/-- What a far read records; ADDR_UNMAPPED once, at its first address. -/
def farNote (c : Chip) (core b agent : Nat) (cache : Bool) (a n : Nat) : Chip :=
  let c1 := match c.firstUnmapped b a n with
    | some x => c.report core 2 agent x
    | none => c
  (piecesOf a n).foldl (fun c p => c.farNotePiece core b agent cache p) c1

/-- Packets of at most `w` bytes over whole lines. -/
def windowPackets (w a n : Nat) : List (Nat × Nat) :=
  let lo := a / 128 * 128
  let hi := (a + n + 127) / 128 * 128
  tabulate (ceilDiv (hi - lo) w) fun i => (lo + i * w, min w (hi - lo - i * w))

/-- The runs of window lines that one aperture serves at consecutive host addresses: first line, bytes, flow, host address (R385,
R387). -/
def windowRuns (c : Chip) (b : Nat) (lines : List Nat) : List (Nat × Nat × Nat × Nat) :=
  lines.foldr (fun x acc => match c.aperture b x with
    | none => acc
    | some (f, h) => match acc with
      | (y, n, g, k) :: t => if y = x + 128 && g = f && k = (h + 128) % 2 ^ 64 then (x, n + 128, f, h) :: t else (x, 128, f, h) :: acc
      | [] => [(x, 128, f, h)]) []

/-- The packets of window lines, in ascending address order: flow, window address, host address, bytes (R387). -/
def packetsOf (c : Chip) (b : Nat) (lines : List Nat) : List (Nat × Nat × Nat × Nat) :=
  (c.windowRuns b lines).flatMap fun r => (windowPackets (c.windowSize r.2.2.1) r.1 r.2.1).map fun p =>
    (r.2.2.1, p.1, (r.2.2.2 + (p.1 - r.1)) % 2 ^ 64, p.2)

/-- The first addresses of the lines that a range touches. -/
def linesOf (a n : Nat) : List Nat := (piecesOf a n).map fun p => p.a / 128 * 128

/-- Mark or clear the host lines of a window read as unanswered (R388). -/
def markHost (c : Chip) (h n : Nat) (bad : Bool) : Chip :=
  foldN (n / 128) (fun c i => { c with hostBad := Sparse.set Mem.falseDefault c.hostBad ((h % 2 ^ 64) / 128 + i) bad }) c

/-- Register and send the HREADs of a window read (R386, R387). `want` gives, for a window address, the near device address
its 16 bytes fill, or 0; a row's near bytes start at basin address `start` and are written from cycle `first` on, by `engine`. -/
def sendReads (c : Chip) (core b a n : Nat) (cache : Bool) (want : Nat → Nat) (engine start first : Nat) : Chip :=
  (c.packetsOf b (linesOf a n)).foldl (fun c (f, x, host, len) =>
    let tag := (c.quay.tag + 1) % 2 ^ 32
    let r : HRead := { flow := f, tag := tag, len := len, host := host, near := tabulate (len / 16) fun i => want (x + 16 * i),
                       engine := engine, win := x, cache := cache, start := start, first := first, basin := b,
                       core := core, tick := c.tide }
    let c := c.markHost host len false
    let c := { c with quay := { c.quay with hreads := c.quay.hreads ++ [r], tag := tag } }
    c.send f 6 (toLE 8 host ++ toLE 4 len ++ toLE 4 tag)) c

/-- Window data that has come goes into the cache ways of its lines' home dies. -/
def allocateWindow (c : Chip) (r : HRead) (data : List PByte) : Chip :=
  if !r.cache then c
  else foldN (r.len / 128) (fun c i =>
    c.allocate (c.homeDie r.basin (r.win + 128 * i)) (r.win + 128 * i) ((data.drop (128 * i)).take 128)) c

/-- A harbour die serves a prefetch (R222): a line it does not hold is read from its stack, or by an HREAD. -/
def servePrefetch (c : Chip) (x : Nat × Nat × Nat) : Chip :=
  if (c.wayLine x.1 x.2.1).isSome then c
  else if isWindow x.2.1 then c.sendReads x.2.2 (c.basinOfCore x.2.2) x.2.1 128 true (fun _ => 0) 0 0 0
  else (c.noteRead x.2.2 x.2.1 128).allocate x.1 x.2.1 (c.peek x.2.1 128)

/-- An edge of the harbour dies: each serves the oldest prefetch of its queue, but for a stack in a window (log entry 67, DESIGN CHOICE). -/
def prefetchEdge (c : Chip) : Chip :=
  (tabulate 16 (· + 20)).foldl (fun c die => match c.fab.prefetch.find? fun x => x.1 = die with
    | none => c
    | some x =>
      if x.2.1 < 20 * stackSize && 0 < (c.win (x.2.1 / stackSize)).left then c
      else servePrefetch { c with fab := { c.fab with prefetch := c.fab.prefetch.erase x } } x) c

/-- `n` edges of the harbour dies. -/
def prefetchEdges : Nat → Chip → Chip
  | 0, c => c
  | n + 1, c => if c.fab.prefetch.isEmpty then c else prefetchEdges n c.prefetchEdge

/-! ### Far writes -/

/-- The lowest enabled moored region of a basin that holds an address (R351). -/
def mooredAt (c : Chip) (b a : Nat) : Option Nat :=
  (List.range 64).find? fun r =>
    let v := c.reg (R.seqMoorBase b r)
    fbit v 63 && fget v 0 48 ≤ a && a < fget v 0 48 + 4096 * c.regField (R.seqMoorLen b r) 0 36

/-- A write blocked by the closed gate: not performed, a poisoned write, INT_MOOR_REC (R352). -/
def mooredBlock (c : Chip) (core agent writer region a : Nat) (coreless : Bool) : Chip :=
  let s := core / 2
  let c := (c.report core 1 agent a).event (R.intEvents s) 5
  let c := c.setField (R.intStatus s) 3 1 1
  c.capture (R.intMoorRec s)
    (packF [(0, 1, 1), (1, 3, writer), (4, 1, if coreless then 0 else core % 2), (5, 6, region), (12, 48, a / 128 * 128)]) 0x1A
    (c.basinOfSett s)

/-- A cache-way line after a write of some of its bytes: one that delivers nothing stays poisoned unless all of it is written (R198,
R199). -/
def merged (c : Chip) (l : CacheLine) (off : Nat) (bytes : List PByte) : CacheLine :=
  { l with data := if bytes.length ≠ 128 && !(c.wayDecode l).1.delivers then List.replicate 128 none
             else (c.waySeen l).take off ++ bytes ++ (c.waySeen l).drop (off + bytes.length),
           err := [] }

/-- A present copy of a window line takes a write to it (R221). -/
def updateCopy (c : Chip) (die a : Nat) (bytes : List PByte) : Chip :=
  c.setCache (c.fab.cache.map fun l =>
    if l.die = die && l.line = a / 128 * 128 then c.merged l (a % 128) bytes else l)

/-- A window write of one piece: nothing for a poisoned line (host_drop), else the line as the host is to hold it (R198). -/
def windowStore (c : Chip) (core b a : Nat) (bytes : List PByte) : Chip :=
  match c.aperture b a with
  | none => c
  | some (_, h) =>
    if dirty bytes then c.event (R.strEvents core) 5 else (c.hostStore h (plain bytes)).updateCopy (c.homeDie b a) a bytes

/-- The HWRITEs of window lines that an access has written (R386, R387). -/
def sendWrites (c : Chip) (b : Nat) (lines : List Nat) : Chip :=
  (c.packetsOf b lines).foldl (fun c (f, _, host, len) =>
    c.send f 8 (toLE 8 host ++ toLE 4 len ++ toLE 4 0 ++ tabulate len fun i => c.hostByte ((host + i) % 2 ^ 64))) c

/-- A write to an image between the issue and the last intake of an operation that reads it is a hazard, but BUILD's own (R145,
Table 07.13). -/
def auditImage (c : Chip) (core b agent a n : Nat) : Chip :=
  if !c.audited b then c
  else (c.coresOf b).foldl (fun c j =>
    let k := c.core j
    match k.mvus.getLast? with
    | none => c
    | some f =>
      let w := bits f.m.d 0 48 / 128 * 128
      if k.cycle ≤ k.mvuLastIntake.getD 0 && a < w + f.len && w < a + n && !(agent = 1 && j = core) then c.auditTrap j 5 5 else c) c

/-- FP32 elements of two byte runs added (R249 scatter-add); a poisoned byte poisons its element. -/
def scatterAdd (old new : List PByte) : List PByte :=
  ((chunks 4 old).zip (chunks 4 new)).flatMap fun e =>
    if dirty e.1 || dirty e.2 then List.replicate 4 none
    else clean (toLE 4 (f32Add (BitVec.ofNat 32 (fromLE (plain e.1))) (BitVec.ofNat 32 (fromLE (plain e.2)))).toNat)

/-- A far write of one piece reaches its store: moored lines guarded, unmapped writes dropped, poison reported (R199, R201, R212,
R352); a flit that the mesh broke on its way to pinned ways arrives poisoned (R37). -/
def farPut (c : Chip) (w : FarWait) : Chip :=
  match c.farMap w.basin w.addr with
  | none => c
  | some d =>
    let bytes := if w.add && !isWindow w.addr then scatterAdd (c.farPiece w.basin { a := w.addr, n := w.bytes.length }) w.bytes else w.bytes
    if isWindow d then (c.windowStore w.core w.basin w.addr bytes).reportIf (dirty bytes) w.core 1 w.agent w.addr
    else match (if c.gateOpen w.basin then none else c.mooredAt w.basin w.addr) with
      | some r => c.mooredBlock w.core w.agent w.writer r w.addr w.coreless
      | none =>
        let r := c.meshWrite d bytes
        let c := r.1.noteMerge w.core d bytes.length
        let c := c.poke d r.2
        c.reportIf (dirty (c.peek d bytes.length)) w.core 1 w.agent w.addr

/-- The stack in a window, or with writes waiting for its end, that a far address belongs to. -/
def closedStack (c : Chip) (b a : Nat) : Option Nat :=
  match c.farMap b a with
  | some d =>
    let s := d / stackSize
    if d < 20 * stackSize && (0 < (c.win s).left || !(c.win s).writes.isEmpty) then some s else none
  | none => none

/-- A far write of one piece: ordered at once, but to a stack in a window, where it waits (R203, R212). -/
def farSend (c : Chip) (w : FarWait) : Chip :=
  let c := c.auditImage w.core w.basin w.agent w.addr w.bytes.length
  match c.closedStack w.basin w.addr with
  | some s => c.setWin s fun x => { x with writes := x.writes ++ [w] }
  | none => c.farPut w

/-- Far writes, line by line; what they wrote of the window leaves as HWRITEs. -/
def farSends (c : Chip) (b : Nat) (l : List FarWait) : Chip :=
  (l.foldl farSend c).sendWrites b ((l.filter fun w => isWindow w.addr && !dirty w.bytes).map fun w => w.addr / 128 * 128)

/-- The writes that waited for a stack's window are served, oldest first (R203). -/
def serveWrites (c : Chip) (s : Nat) : Chip :=
  let w := c.win s
  if w.left ≠ 0 || w.writes.isEmpty then c
  else w.writes.foldl farPut (c.setWin s fun x => { x with writes := [] })

/-- Whether a write of a basin waits for the end of a window. -/
def writesWait (c : Chip) (b : Nat) : Bool := c.wins.any fun w => w.writes.any fun x => x.basin = b

/-- A far write by a unit: pieces and their bytes. -/
def farStorePieces (c : Chip) (core b agent writer : Nat) (coreless : Bool) (l : List (Nat × List PByte)) : Chip :=
  c.farSends b (l.map fun p =>
    { core := core, basin := b, agent := agent, writer := writer, coreless := coreless, add := false, addr := p.1, bytes := p.2, row := none })

/-- A far write by a unit of a run of bytes. -/
def farStore (c : Chip) (core b agent writer : Nat) (coreless : Bool) (a : Nat) (bytes : List PByte) : Chip :=
  c.farStorePieces core b agent writer coreless ((piecesOf a bytes.length).map fun p => (p.a, (bytes.drop (p.a - a)).take p.n))

/-- A far write that also records ADDR_UNMAPPED at its first unmapped address. -/
def farWrite (c : Chip) (core b agent writer : Nat) (coreless : Bool) (a : Nat) (bytes : List PByte) : Chip :=
  let c := match c.firstUnmapped b a bytes.length with
    | some x => c.report core 2 agent x
    | none => c
  c.farStore core b agent writer coreless a bytes

end Chip
end Sys2Proof.Machine
end

