-- ==== Sys2Proof/Machine/Fetch.lean ====
section
/-! DEFINITION. The fetcher of a core (R242): bundles in execution order, loop repetitions included, into a queue under SECDED. -/

namespace Sys2Proof.Machine

/-- A bundle's 512 bits, by bit (R243). -/
abbrev Bundle := Nat

/-- The bundle after the one that issued at index `x`: inner loops are tested first, and a body with iterations left returns to
its start (R247). -/
def loopNext : List Loop → Nat → Nat × List Loop
  | [], x => (x + 1, [])
  | l :: t, x =>
    if x ≠ l.start + l.lenM1 then (x + 1, l :: t)
    else if l.iterLeft = 0 then loopNext t x
    else (l.start, { l with iterLeft := l.iterLeft - 1 } :: t)

/-- Whether a LOOP at bundle `x` with a body of `lenM1` + 1 bundles keeps the rules of R247. -/
def loopFits (ls : List Loop) (x lenM1 : Nat) : Bool :=
  decide (ls.length < 4) && (match ls with
    | [] => true
    | l :: _ => decide (x + 1 + lenM1 ≤ l.start + l.lenM1))

/-- The loop levels once bundle `x` has issued: a LOOP that keeps the rules opens one. -/
def loopEnter (ls : List Loop) (x : Nat) (w : Bundle) : List Loop :=
  if bits w 16 4 = 1 && loopFits ls x (bits w 48 16) then
    { start := x + 1, iterLeft := bits w 24 24, lenM1 := bits w 48 16 } :: ls
  else ls

/-- Whether the queue keeps bundle `x` once it has issued, bundle `n` being next: a body of at most 4,096 bundles is repeated from
the queue. -/
def keptInQueue (ls : List Loop) (x n : Nat) : Bool :=
  ls.any fun l => decide (l.start ≤ x) && decide (x ≤ l.start + l.lenM1) && decide (l.lenM1 < 4096) &&
    (decide (l.iterLeft ≠ 0) || decide (n ≤ x))

namespace Chip

/-- A bundle is read from its stack into the queue; a line that reads poisoned is held so. -/
def fetchBundle (c : Chip) (i x : Nat) : Chip :=
  let a := (c.core i).streamAddr + 64 * x
  let data := c.peek a 64
  let e : QBundle := { index := x, data := if dirty data then none else some (fromLE (plain data)), errs := List.replicate 8 0 }
  (c.noteRead i a 64).setCore i fun k => { k with queue := (k.queue.filter fun q => q.index != x) ++ [e] }

/-- The entry of the queue for a bundle. -/
def queued (c : Chip) (i x : Nat) : Option QBundle := (c.core i).queue.find? fun q => q.index = x

/-- The fetcher takes the next bundle in execution order, from its stack or, where the queue still holds it, from there. -/
def fetchNext (c : Chip) (i : Nat) : Chip :=
  let x := (c.core i).fetch
  let c := if (c.queued i x).isSome then c else c.fetchBundle i x
  let w := (c.queued i x).bind QBundle.data
  c.setCore i fun k =>
    let r := loopNext (loopEnter k.fetchLoops x (w.getD 0)) x
    { k with fetch := r.1, fetchLoops := r.2, fetchAhead := k.fetchAhead + 1,
             fetchEnd := (w.map fun v => decide (bits v 16 4 = 6)).getD true }

/-- Whether the fetcher may run on: up to 4,096 bundles ahead of issue, within the stream, and its stack in no window. -/
def mayFetch (c : Chip) (i : Nat) : Bool :=
  let k := c.core i
  !k.fetchEnd && decide (k.fetchAhead < 4096) && decide (k.fetch < k.bundles) &&
    !(decide (k.streamAddr < 20 * stackSize) && decide (0 < (c.win (k.streamAddr / stackSize)).left))

/-- `n` edges of the fetcher: a bundle in each (log entry 16, DEDUCED). -/
def fetchEdges : Nat → Chip → Nat → Chip
  | 0, c, _ => c
  | n + 1, c, i => if c.mayFetch i then fetchEdges n (c.fetchNext i) i else c

/-- Bundle `x` as it issues: what is not in the queue is fetched now; an entry with a double-bit error is discarded and fetched again
(R242, TID_EVENTS). -/
def takeBundle (c : Chip) (i x : Nat) : Chip × Option Bundle :=
  let c := if (c.core i).fetchAhead = 0 then c.fetchNext i else c
  let lost := (c.queued i x).elim false fun q => q.errs.any fun n => decide (2 ≤ n)
  let c := if lost then c.event (R.tidEvents (i / 2)) 1 else c
  let c := if lost || (c.queued i x).isNone then c.fetchBundle i x else c
  (c.setCore i fun k => { k with fetchAhead := k.fetchAhead - 1 }, (c.queued i x).bind QBundle.data)

/-- Bundle `x` has issued: it leaves the queue unless a loop repeats it. -/
def leaveQueue (c : Chip) (i x : Nat) : Chip :=
  c.setCore i fun k => if keptInQueue k.loops x k.bundle then k else { k with queue := k.queue.filter fun q => q.index != x }

end Chip
end Sys2Proof.Machine
end

