-- ==== Sys2Proof/Machine/Streams.lean ====
section
/-! DEFINITION. Stream engines and check-value units (R210 to R229): rows move in the cycles of Table 06.9, far requests go out
edge by edge; engine occupation counts logical cycles. -/

namespace Sys2Proof.Machine

/-- A signed stride with bits [3:0] taken as zero (R89). -/
def strideOf (d lo : Nat) : Int := signed 32 (bits d lo 32 / 16 * 16)

def Stream.ofDesc (d : Nat) : Stream :=
  { far := bits d 0 48 / 16 * 16, near := bits d 48 48 / 16 * 16, out := bits d 96 1 == 1, cache := bits d 97 1 == 1,
    bytes := 16 * (bits d 98 12 + 1), n1 := bits d 110 12 + 1, n2 := bits d 122 12 + 1, fs1 := strideOf d 134,
    fs2 := strideOf d 166, ns1 := strideOf d 198, ns2 := strideOf d 230, base := bits d 262 24, step := bits d 286 16,
    post := bits d 302 16, ahead := bits d 318 8 }

namespace Stream
def rows (s : Stream) : Nat := s.n1 * s.n2
/-- Near cycles of a row: c of R211. -/
def c (s : Stream) : Nat := ceilDiv s.bytes 2048
/-- Q(j) of a stream issued in `issue`. -/
def q (s : Stream) (issue j : Nat) : Nat := issue + max s.base s.c + j * max s.step s.c
/-- An address plus signed steps, modulo 2^48. -/
def shift (a : Nat) (i1 i2 : Nat) (s1 s2 : Int) : Nat := (((a : Int) + i1 * s1 + i2 * s2) % (2 ^ 48 : Int)).toNat
def farOf (s : Stream) (j : Nat) : Nat := shift s.far (j % s.n1) (j / s.n1) s.fs1 s.fs2
def nearOf (s : Stream) (j : Nat) : Nat := shift s.near (j % s.n1) (j / s.n1) s.ns1 s.ns2
/-- A row whose far bytes touch more than 512 lines (R212). -/
def tooWide (s : Stream) (j : Nat) : Bool := 512 < (piecesOf (s.farOf j) s.bytes).length
/-- Last busy cycle of a stream issued in `issue` (R213). -/
def busyTo (s : Stream) (issue : Nat) : Nat :=
  s.q issue (s.rows - 1) + (if s.out then s.c - 1 + s.post else 0)
end Stream

/-- Whether a scan has a deadline and not a fixed last cycle (R226). -/
def Scan.due (s : Scan) : Bool := !s.own || s.res.isSome

namespace Chip

/-- Whether an engine is busy or held by the MVU at a cycle (R213). -/
def engineBusy (c : Chip) (core e cyc : Nat) : Bool :=
  match (c.core core).engines[e]? with
  | some g => decide (cyc ≤ g.busyTo.getD 0 && g.busyTo.isSome) || decide (cyc ≤ g.heldTo.getD 0 && g.heldTo.isSome)
  | none => true

def setEngine (c : Chip) (core e : Nat) (f : Engine → Engine) : Chip :=
  c.setCore core fun k => { k with engines := modifyAt k.engines e f }

/-- Mark a LOOSE slot that issued: the core's flag and the step's (R249, R282). -/
def markLoose (c : Chip) (core : Nat) (loose : Bool) : Chip :=
  if !loose then c
  else (c.setCore core fun k => { k with loose := true }).setField (R.seqStepStatus (c.basinOfCore core)) 9 1 1

/-- Change the stream under way on an engine. -/
def setStream (c : Chip) (core e : Nat) (f : StrFl → StrFl) : Chip := c.setEngine core e fun g => { g with fl := g.fl.map f }

/-- Report the first unmapped address of a stream, once (R39). -/
def strUnmapped (c : Chip) (core e b agent : Nat) (ps : List Piece) : Chip :=
  match ps.find? fun p => (c.farMap b p.a).isNone with
  | none => c
  | some p =>
    if (((c.core core).engines[e]?).bind Engine.fl).elim true StrFl.unmapped then c
    else (c.setStream core e fun x => { x with unmapped := true }).report core 2 agent p.a

/-- Whether a row reads window lines: it is filled by its HDATA and by copies in the cache ways. -/
def byHdata (s : Stream) (j : Nat) : Bool := (piecesOf (s.farOf j) s.bytes).any fun p => isWindow p.a

/-- Window bytes for a row whose near bytes start at basin address `start` and whose first scratch write falls in cycle `first`, at a
device address of the core's scratch: kept for their cycle, or written at once, with the report that a poisoned write makes (R201),
where it has passed. -/
def landBytes (c : Chip) (core engine start first near : Nat) (data : List PByte) : Chip :=
  let a := c.nearBase core + (near - scratchBase core)
  let t := first + (a - start) / 2048
  if (c.core core).cycle < t then
    c.setCore core fun k => { k with lands := k.lands ++ [{ cycle := t, engine := engine, addr := near, bytes := data }] }
  else (c.poke near data).reportIf (dirty data) core 1 3 a

/-- Window data arrives. -/
def landHost (c : Chip) (r : HRead) (near : Nat) (data : List PByte) : Chip := c.landBytes r.core r.engine r.start r.first near data

/-- Neighbouring pieces joined into ranges. -/
def joinPieces : List Piece → List Piece
  | [] => []
  | p :: t => match joinPieces t with
    | q :: r => if p.a + p.n = q.a then { a := p.a, n := p.n + q.n } :: r else p :: q :: r
    | [] => [p]

/-- A window row is asked for: copies in the cache ways land, unmapped lines land poisoned, HREADs leave for the rest (R39, R221, R386);
near bytes outside the core's scratch are dropped. -/
def askWindow (c : Chip) (core e b : Nat) (s : Stream) (issue j : Nat) : Chip :=
  let a := s.farOf j
  let start := s.nearOf j
  let first := s.q issue j + 1 - s.c
  let ps := piecesOf a s.bytes
  let near (x : Nat) : Nat := if a ≤ x && x < a + s.bytes && c.isNear core (start + (x - a)) then c.nearDev core (start + (x - a)) else 0
  let here (p : Piece) : Bool := (c.farMap b p.a).isNone || (c.served core b p.a s.cache).isSome
  let c' := (ps.filter here).foldl (fun c' p => (chunks 16 (c.farSees core b s.cache p)).zipIdx.foldl (fun c' x =>
    if near (p.a + 16 * x.2) = 0 then c' else c'.landBytes core e start first (near (p.a + 16 * x.2)) x.1) c') c
  (joinPieces (ps.filter fun p => !here p)).foldl (fun c' r => c'.sendReads core b r.a r.n s.cache near e start first) c'

/-- The bytes of a piece of row `j` land at their place in it. -/
def landPiece (c : Chip) (core e b : Nat) (s : Stream) (j : Nat) (p : Piece) : Chip :=
  let data := c.farSees core b s.cache p
  let o := p.a - s.farOf j
  (c.farNotePiece core b 8 s.cache p).setStream core e fun x =>
    { x with landed := x.landed.map fun r => if r.1 = j then (j, r.2.take o ++ data ++ r.2.drop (o + p.n)) else r }

/-- What a stack in a window has kept waiting is served: all of the rows up to `upto`, else what waits no longer (R203). -/
def serveWaits (c : Chip) (core e : Nat) (upto : Option Nat) : Chip :=
  match ((c.core core).engines[e]?).bind Engine.fl with
  | none => c
  | some f =>
    let b := c.basinOfCore core
    let ready (w : Nat × Nat × Nat) : Bool := match upto with
      | some j => decide (w.1 ≤ j)
      | none => !c.closedTo core b f.s.cache { a := w.2.1, n := w.2.2 }
    let go := f.waits.filter ready
    if go.isEmpty then c
    else go.foldl (fun c w => c.landPiece core e b f.s w.1 { a := w.2.1, n := w.2.2 })
      (c.setStream core e fun x => { x with waits := x.waits.filter fun w => !ready w })

/-- Request up to `n` more lines of an IN row: their bytes land (R212, R217), or wait where their stack is in a window (R203). A
window row sends its HREADs with its first line, and the look-ahead row is prefetched with it (R222). -/
def requestLines (c : Chip) (core e b : Nat) (f : StrFl) (issue j n : Nat) : Chip :=
  let s := f.s
  let ps := piecesOf (s.farOf j) s.bytes
  let host := byHdata s j
  let c := if f.lines ≠ 0 then c else
    let c := if host then c.askWindow core e b s issue j
      else c.setStream core e fun x => { x with landed := x.landed ++ [(j, List.replicate s.bytes none)] }
    if s.ahead ≠ 0 && j + s.ahead < s.rows then
      (piecesOf (s.farOf (j + s.ahead)) s.bytes).foldl (fun c p => match c.farMap b p.a with
        | some d => c.prefetchLine core b d s.cache
        | none => c) c
    else c
  let now := (ps.drop f.lines).take n
  let c := c.strUnmapped core e b 8 now
  let c := now.foldl (fun c p =>
    if host then c.farNotePiece core b 8 s.cache p
    else if c.closedTo core b s.cache p then c.setStream core e fun x => { x with waits := x.waits ++ [(j, p.a, p.n)] }
    else c.landPiece core e b s j p) c
  let all := decide (ps.length ≤ f.lines + n)
  c.setStream core e fun x =>
    { x with lines := if all then 0 else f.lines + n, requested := if all then j + 1 else j }

/-- Lines of a row's landing space. -/
def rowLines (s : Stream) (j : Nat) : Nat := if s.tooWide j then 0 else (piecesOf (s.farOf j) s.bytes).length

/-- Request up to `left` lines, row after row, as far as the landing buffer has space; a row's space is free after its last
scratch write (R212). A row that can never be held is passed over: a schedule error. -/
def farLines : Nat → Chip → Nat → Nat → Nat → Chip
  | 0, c, _, _, _ => c
  | fuel + 1, c, core, e, left =>
    match ((c.core core).engines[e]?).bind fun g => g.fl.map fun f => (g, f) with
    | none => c
    | some (g, f) =>
      let j := f.requested
      if f.s.out || f.s.rows ≤ j || left = 0 then c
      else if f.s.tooWide j then
        farLines fuel ((c.schedErr core (R.strEvents core) 1 (7 + f.slot)).setStream core e fun x => { x with requested := j + 1 }) core e left
      else
        let held := sumN ((List.range (j - f.moved)).map fun i => rowLines f.s (f.moved + i))
        if f.lines = 0 && 512 < held + rowLines f.s j then c
        else
          let n := min left (rowLines f.s j - f.lines)
          farLines fuel (c.requestLines core e (c.basinOfCore core) f g.issue j n) core e (left - n)

/-- The far end of an engine for one edge: up to 64 lines (R212). -/
def farEdge (c : Chip) (core e : Nat) : Chip := farLines 64 (c.serveWaits core e none) core e 64

/-- Request whatever is missing of an IN row whose scratch writes begin. -/
def farNow (c : Chip) (core e j : Nat) : Chip :=
  let c := foldN (j + 1) (fun c _ => match ((c.core core).engines[e]?).bind fun g => g.fl.map fun f => (g, f) with
    | some (g, f) =>
      if j < f.requested then c
      else if f.s.tooWide f.requested then
        (c.schedErr core (R.strEvents core) 1 (7 + f.slot)).setStream core e fun x => { x with requested := x.requested + 1 }
      else c.requestLines core e (c.basinOfCore core) f g.issue f.requested 512
    | none => c) c
  c.serveWaits core e (some j)

/-- An IN row's scratch write of near cycle `q` (R211, R212) (log entry 26, DEDUCED). -/
def inChunk (c : Chip) (core e : Nat) (s : Stream) (j q : Nat) : Chip :=
  let na := s.nearOf j + 2048 * q
  let n := min 2048 (s.bytes - 2048 * q)
  let ag := 3 + 16 * e
  let c := if q = 0 then c.farNow core e j else c
  let put (c : Chip) (bytes : List PByte) : Chip :=
    (if dirty bytes then c.event (R.strEvents core) 4 else c).nearWrite core ag na bytes
  let c := if s.tooWide j then put c (List.replicate n none)
    else match (((c.core core).engines[e]?.bind Engine.fl).bind fun f => f.landed.find? fun r => r.1 = j) with
      | some row => put c ((row.2.drop (2048 * q)).take n)
      | none => c.nearUnmapped core ag na n
  if q + 1 = s.c then c.setStream core e fun (x : StrFl) => { x with moved := j + 1, landed := x.landed.filter fun r => r.1 != j } else c

/-- An OUT row's scratch read of near cycle `q`, and its lines that are now whole: stored at the far end, or added there with the
LOOSE bit into DRAM or pinned ways (R211, R212, R249) (log entry 26, DEDUCED). -/
def outChunk (c : Chip) (core e : Nat) (f : StrFl) (j q : Nat) : Chip :=
  let s := f.s
  let b := c.basinOfCore core
  let a := s.farOf j
  let na := s.nearOf j + 2048 * q
  let n := min 2048 (s.bytes - 2048 * q)
  let ag := 8 + 16 * e
  let w := if f.loose then 1 else 0
  let fin (c : Chip) : Chip :=
    if q + 1 = s.c then c.setStream core e fun x => { x with moved := j + 1, requested := j + 1, sent := [] } else c
  if s.tooWide j then
    fin (if q ≠ 0 then c else (c.schedErr core (R.strEvents core) 1 (7 + f.slot)).farStorePieces core b 3 w false
      ((piecesOf a s.bytes).map fun p => (p.a / 128 * 128, List.replicate 128 none)))
  else
    let part := c.nearPeek core ag na n
    let c := c.nearNote core ag na n
    let had := (((c.core core).engines[e]?).bind Engine.fl).elim [] StrFl.sent
    let row := had ++ part
    let whole (k : Nat) (p : Piece) : Bool := p.a + p.n ≤ a + k
    let ps := (piecesOf a s.bytes).filter fun p => whole row.length p && !whole had.length p
    let c := (c.strUnmapped core e b 3 ps).setStream core e fun x => { x with sent := row }
    fin (c.farSends b (ps.map fun p =>
      { core := core, basin := b, agent := 3, writer := w, coreless := false, add := f.loose, addr := p.a,
        bytes := (row.drop (p.a - a)).take p.n, row := some (e, j) }))

/-- The near end of an engine in a cycle (Table 06.9). -/
def nearCycle (c : Chip) (core e : Nat) : Chip :=
  let k := c.core core
  match k.engines[e]? with
  | none => c
  | some g => match g.fl with
    | none => c
    | some f =>
      let first := if f.s.out then f.s.q g.issue 0 else f.s.q g.issue 0 + 1 - f.s.c
      let x := k.cycle - first
      let st := max f.s.step f.s.c
      let j := x / st
      if k.cycle < first || f.s.rows ≤ j || f.s.c ≤ x % st then c
      else if f.s.out then (c.acting core (e + 1)).outChunk core e f j (x % st)
      else (c.acting core (e + 1)).inChunk core e f.s j (x % st)

/-- Window data whose scratch write falls in the present cycle. -/
def landNow (c : Chip) (core : Nat) : Chip :=
  let k := c.core core
  (k.lands.filter fun x => x.cycle = k.cycle).foldl (fun c x =>
    let a := c.nearBase core + (x.addr - scratchBase core)
    let ag := 3 + 16 * x.engine
    let c := if dirty x.bytes then c.event (R.strEvents core) 4 else c
    ((c.access core ag true a x.bytes.length).queueWrite core ag x.addr x.bytes).reportIf (dirty x.bytes) core 1 3 a)
    (c.setCore core fun k => { k with lands := k.lands.filter fun x => x.cycle != k.cycle })

/-- A stream slot issues on a free engine (R210 to R213). -/
def streamIssue (c : Chip) (core slot e idx : Nat) (loose : Bool) (cyc : Nat) : Chip :=
  if c.engineBusy core e cyc then c.schedErr core (R.strEvents core) 1 (7 + slot)
  else
    let desc := c.descBytes core 7 idx 64
    let c := (c.descNote core 7 idx 64).markLoose core loose
    let c := c.setEngine core e fun g => { g with seq := (g.seq + 1) % 4096, rows := 0, busyTo := none, fl := none }
    match desc with
    | none => c
    | some l =>
      let s := Stream.ofDesc (fromLE l)
      let c := if s.base < s.c then c.schedErr core (R.strEvents core) 1 (7 + slot) else c
      c.setEngine core e fun g =>
        { g with dir := s.out.toNat, issue := cyc, base := max s.base s.c, step := max s.step s.c, rows := s.rows, width := s.c,
                 post := if s.out then s.c - 1 + s.post else 0, busyTo := some (s.busyTo cyc),
                 fl := some { s := s, slot := slot, loose := loose, requested := 0, lines := 0, landed := [], waits := [], sent := [],
                              moved := 0, unmapped := false } }

/-- Rows of an OUT stream that are ordered: those sent, but from the first that waits for a window's end or is late. -/
def orderedRows (c : Chip) (core e n : Nat) : Nat :=
  let waits := c.wins.flatMap fun w => (w.writes.filter fun x => x.core = core).filterMap FarWait.row
  let late := match (c.core core).ebb with
    | some x => if x.pend.any fun p => p.core = core && p.cause = 1 && p.left != some 0 then (c.core core).lateRow else none
    | none => none
  ((waits ++ late.toList).filter fun x => x.1 = e).foldl (fun m x => min m x.2) n

/-- STR_ENGINE_e as it reads (Table 06.17). An OUT row counts as done once it is ordered. -/
def engineStatus (c : Chip) (core e : Nat) : Word :=
  let k := c.core core
  match k.engines[e]? with
  | none => 0
  | some g =>
    let busy := decide (k.cycle < g.busyTo.getD 0) && g.busyTo.isSome
    let held := decide (k.cycle < g.heldTo.getD 0) && g.heldTo.isSome
    let done := (g.fl.map StrFl.moved).getD g.rows
    packF [(0, 1, g.dir), (1, 1, busy.toNat), (2, 1, held.toNat), (4, 24, if g.dir = 1 then c.orderedRows core e done else done),
      (28, 24, (g.fl.map StrFl.requested).getD g.rows), (52, 12, g.seq)]

/-! ### Check-value units (R225, R226) -/

/-- Fold a range into a CRC state in ascending order, a poisoned byte as zero. -/
def scanBytes (poly st : Nat) (l : List PByte) : Nat := crcRun poly st (plain l)

/-- What reading `n` bytes of a scan records. -/
def scanNote (c : Chip) (core : Nat) (s : Scan) (a n : Nat) : Chip :=
  if s.own then c.nearWords core 9 a n
  else
    let b := c.basinOfCore core
    (piecesOf a n).foldl (fun c p => match c.farMap b p.a with
      | some x => (if isWindow x || (c.served core b x false).isSome then c else c.noteRead core x p.n).demandLine core b x false
      | none => c) c

/-- The end of a scan: CHK_STATE, CHK_RESULT, CHK_STATUS and the stored result (R226). -/
def scanEnd (c : Chip) (core : Nat) (s : Scan) : Chip :=
  let result := s.st ^^^ crcXor s.poly
  let scans := c.regField (R.chkStatus core) 8 24
  let c := c.put (R.chkState core) (BitVec.ofNat 64 s.st)
  let c := if s.final then c.put (R.chkResult core) (BitVec.ofNat 64 result) else c
  let c := c.put (R.chkStatus core)
    (packF [(1, 1, if s.final then 1 else c.regField (R.chkStatus core) 1 1), (2, 1, s.bad.toNat), (3, 2, s.poly),
      (8, 24, (scans + 1) % 2 ^ 24)])
  match s.res with
  | some a => c.farStore core (c.basinOfCore core) 9 3 false a (clean (toLE 8 (if s.final then result else s.st)))
  | none => c

/-- A scan reads its next `n` bytes. -/
def scanRead (c : Chip) (core n : Nat) (s : Scan) : Chip × Scan :=
  let a := s.a + s.pos
  let data := if n = 0 then [] else if s.own then c.nearPeek core 9 a n else c.farSeen core (c.basinOfCore core) false a n
  (if n = 0 then c else c.scanNote core s a n,
    { s with st := scanBytes s.poly s.st data, bad := s.bad || dirty data, pos := s.pos + n })

/-- Bytes that a scan reads in an edge: 256, of a stack that is in a window none; host data is read in the last cycle (R203, R226). -/
def scanRate (c : Chip) (core : Nat) (s : Scan) : Nat :=
  let a := s.a + s.pos
  if isWindow s.a || (!s.own && c.closedTo core (c.basinOfCore core) false { a := a, n := 1 }) then 0 else min 256 (s.n - s.pos)

/-- A scan's cycle: from scan cycle 1 on it reads, of own scratch whatever remains in the last cycle; one with a fixed last cycle ends
in it (R226). -/
def scanCycle (c : Chip) (core : Nat) : Chip :=
  let k := c.core core
  match k.scan with
  | none => c
  | some s =>
    let fin := decide (s.last ≤ k.cycle)
    let r := c.scanRead core (if fin && s.own then s.n - s.pos else c.scanRate core s) s
    let ends := fin && !s.due
    let c := r.1.setCore core fun k => { k with scan := if ends then none else some r.2 }
    if ends then c.scanEnd core r.2 else c

/-- A scan with a deadline is over once its core passes the boundary that the deadline guards: in a CHK_LATE ebb it is not over yet
(R226). -/
def scanOver (c : Chip) (core : Nat) : Chip :=
  let k := c.core core
  match k.scan with
  | none => c
  | some s =>
    if k.cycle < s.last || k.ebb.isSome then c
    else
      let r := c.scanRead core (s.n - s.pos) s
      (r.1.setCore core fun k => { k with scan := none }).scanEnd core r.2

/-- An edge that is no cycle: a far scan reads on (R216). -/
def scanEdge (c : Chip) (core : Nat) : Chip :=
  match (c.core core).scan with
  | none => c
  | some s =>
    if s.own then c
    else
      let r := c.scanRead core (c.scanRate core s) s
      r.1.setCore core fun k => { k with scan := some r.2 }

/-- A check-value slot (R225, R226, Table 06.14). -/
def checkIssue (c : Chip) (core idx : Nat) (loose : Bool) (cyc : Nat) : Chip :=
  let b := c.basinOfCore core
  if decide (cyc ≤ (c.core core).chkBusyTo.getD 0) && (c.core core).chkBusyTo.isSome then
    c.schedErr core (R.chkEvents core) 0 11
  else
    let desc := c.descBytes core 7 idx 32
    let c := c.descNote core 7 idx 32
    match desc with
    | none => c.markLoose core loose
    | some l =>
      let d := fromLE l
      let a := bits d 0 48 / 64 * 64
      let len := bits d 48 32
      let poly := bits d 80 2
      if len = 0 then c.schedErr core (R.chkEvents core) 0 11
      else
        let c := c.markLoose core loose
        let own := c.isNear core a
        let cont := bits d 82 1 == 1
        let st0 := if cont then (c.reg (R.chkState core)).toNat % 2 ^ (if poly = 2 then 64 else if poly = 3 then 16 else 32)
          else crcInit poly
        let res := bits d 108 1 == 1
        let last := if own && !res then cyc + ceilDiv len 4 + 2 else cyc + bits d 84 24
        let c := if !own && isWindow a then c.sendReads core b a (64 * len) false (fun _ => 0) 0 0 0 else c
        let c := c.setCore core fun k =>
          { k with chkBusyTo := some last,
                   scan := some { t0 := cyc, a := a, n := 64 * len, poly := poly, final := bits d 83 1 == 1, own := own,
                                  res := if res then some (bits d 109 48) else none, st := st0,
                                  bad := cont && c.regField (R.chkStatus core) 2 1 == 1, pos := 0, last := last } }
        if last = cyc then c.scanCycle core else c

end Chip
end Sys2Proof.Machine
end

