-- ==== Sys2Proof/Machine/Arrays.lean ====
section
/-! DEFINITION. The matrix arrays (03_matrix_arrays.md): passes, the accumulation order, checks, commits, verdicts and
localisation. A pass reads, computes and commits in the cycles of R89 and R93; a block that fails its checks waits for its
adjudication. -/

namespace Sys2Proof.Machine

/-! ### The accumulation order (R91, R110, R111) -/

def Acc.zero : Acc := { v := 0, cause := 0, k := 0 }

/-- Of two causes with their indices, the one earlier in Table 02.15; the first of equals (R110, R111) (log entry 52, DEDUCED). -/
def pickCause (x y : Nat × Nat) : Nat × Nat := if y.1 ≠ 0 && (x.1 = 0 || y.1 < x.1) then y else x

/-- One A40 addition of partial sums; INVALID_SUM names the highest index that entered, `hi`. -/
def Acc.add (hi : Nat) (x y : Acc) : Acc :=
  let c := pickCause (pickCause (x.cause, x.k) (y.cause, y.k)) (if a40InvalidSum x.v y.v then (3, hi) else (0, 0))
  { v := a40Add x.v y.v, cause := c.1, k := c.2 }

/-- The products of one cell row summed (R91). `hi` is the row's highest reduction index. -/
def cellRow (hi : Nat) : List Acc → Acc
  | [a] => a
  | [a, b] => Acc.add hi a b
  | [a, b, c, d] => Acc.add hi (Acc.add (hi - 2) a b) (Acc.add hi c d)
  | _ => Acc.zero

/-- Flips by place, gathered into the flip of one place. -/
def flipOf (fl : List (Nat × Nat)) (k : Nat) : Nat := (fl.filter fun f => f.1 = k).foldl (fun a f => a ^^^ f.2) 0

/-- A value with bits of it wrong. -/
def flipped (flip : Nat) (v : A40) : A40 := v ^^^ BitVec.ofNat 40 flip

/-- A column's sum over its cell rows, north to south, `p` products a row (R91); `ch` are the flips of its partial sums by row. -/
def columnSum (p : Nat) (ch : List (Nat × Nat)) (prods : List Acc) : Acc :=
  let rows := chunks p prods
  (rows.zip (List.range rows.length)).foldl (fun acc r =>
    let s := Acc.add (p * r.2 + p - 1) acc (cellRow (p * r.2 + p - 1) r.1)
    { s with v := flipped (flipOf ch r.2) s.v }) Acc.zero

/-- One product slot: the product of R64 with its cause, and a fault's flip of a non-zero product (R101). -/
def slotProduct (flip k : Nat) (x w : LogVal) : Acc :=
  let p := product x w
  { v := if p.1 = 0 then p.1 else flipped flip p.1, cause := (p.2.map Cause.code).getD 0, k := k }

/-- The output of one column for one input vector (R91): `fl` the flips of its product slots by reduction index. -/
def columnOut (p : Nat) (fl ch : List (Nat × Nat)) (x w : List LogVal) : Acc :=
  let y := columnSum p ch ((x.zip (w.zip (List.range w.length))).map fun e => slotProduct (flipOf fl e.2.2) e.2.2 e.1 e.2.1)
  { y with v := flipped (flipOf ch 128) y.v }

/-- The magnitude of a log operand. -/
def LogVal.mag : LogVal → LogVal
  | .inf _ => .inf false
  | .fin _ l n e => .fin false l n e
  | v => v

/-- A checksum sum in R91 order: Σ a[k] × w[k] with the products of R68. -/
def mixSum (p : Nat) (a : List A40) (w : List LogVal) : A40 :=
  (columnSum p [] ((a.zip w).map fun e => { v := mixProduct e.1 e.2, cause := 0, k := 0 })).v

/-! ### Passes -/

namespace Pass
def k (p : Pass) : Nat := 128 * p.p
/-- Berths of an array. -/
def berths (p : Pass) : Nat := 2 ^ p.split
/-- Columns of a berth (Table 03.9). -/
def cols (p : Pass) : Nat := 128 >>> p.split
def blocks (p : Pass) : Nat := (p.v + 63) / 64
/-- Last vector of check block `q`. -/
def lastOf (p : Pass) (q : Nat) : Nat := min (64 * q + 63) (p.v - 1)
/-- Pass cycle in which block `q`'s commit starts: C_q of R93. -/
def commitStart (p : Pass) (q : Nat) : Nat := foldN q (fun a i => max (p.lastOf (i + 1) + 313) (a + 64)) (p.lastOf 0 + 313)
/-- Logical cycle in which vector `j` commits. -/
def commitCycle (p : Pass) (j : Nat) : Nat := p.t + p.commitStart (j / 64) + j % 64
end Pass

namespace Berth
/-- An address or stride field with bits [3:0] taken as zero (R89). -/
def al (b : Berth) (lo w : Nat) : Nat := bits b.d lo w / 16 * 16
def yFmt (b : Berth) : Option Fmt := Fmt.ofOutput (bits b.d 288 4)
def rnd (b : Berth) : Rnd := Rnd.ofBits (bits b.d 292 4)
def accEn (b : Berth) : Bool := bits b.d 307 1 == 1
end Berth

/-- Where elements `e` to `e + n - 1` of width `w` lie: first byte and byte count. -/
def eltSpan (w e n : Nat) : Nat × Nat := (e * w / 8, ((e + n) * w + 7) / 8 - e * w / 8)

/-- Elements `e` to `e + n - 1` of a dense run, with their block scales, as log operands, each with its poison (R52, R200). -/
def readOps (c : Chip) (core agent addr saddr : Nat) (f : Fmt) (e n : Nat) : List (LogVal × Bool) :=
  if n = 0 then []
  else
    let w := f.width
    let sp := eltSpan w e n
    let l := c.nearPeek core agent (addr + sp.1) sp.2
    let sc := if f.isBlock then c.nearPeek core agent (saddr + e / 32) ((e + n - 1) / 32 - e / 32 + 1) else []
    let x := fromLE (plain l)
    let d := dirty l
    let off := e * w % 8
    tabulate n fun i =>
      let s := if f.isBlock then sc.getD ((e + i) / 32 - e / 32) none else some 127
      let at' := off + w * i
      (decLog f (bits x at' w) (s.getD 0).toNat,
        (d && dirty ((l.drop (at' / 8)).take ((at' + w - 1) / 8 - at' / 8 + 1))) || s == none)

/-- What reading those elements records. -/
def noteOps (c : Chip) (core agent addr saddr : Nat) (f : Fmt) (e n : Nat) : Chip :=
  if n = 0 then c
  else
    let sp := eltSpan f.width e n
    let c := c.nearNote core agent (addr + sp.1) sp.2
    if f.isBlock then c.nearNote core agent (saddr + e / 32) ((e + n - 1) / 32 - e / 32 + 1) else c

/-- Where vector `j`'s elements stand that are read for it: address, scale address, first element of the run and count (R90). -/
def inputPlace (p : Pass) (b : Berth) (j : Nat) : Nat × Nat × Nat × Nat :=
  let k := p.k
  if bits b.d 308 1 = 1 then
    let s := 32 * min (bits b.d 309 5) (k / 32)
    (b.al 0 48, b.al 64 48, if j = 0 then 0 else j * s + k - s, if j = 0 then k else s)
  else (b.al 0 48 + j * b.al 48 16, b.al 64 48 + j * (k / 32), 0, k)

/-- Flips of an array's product slots in a column, by reduction index. -/
def slotFlips (fs : List Part) (array p col : Nat) : List (Nat × Nat) :=
  fs.filterMap fun f => match f with
    | .slot a r n i x => if a = array && n = col then some (p * r + i, x) else none
    | _ => none

/-- Flips of an array's partial sums in a column, by row. -/
def chainFlips (fs : List Part) (array col : Nat) : List (Nat × Nat) :=
  fs.filterMap fun f => match f with
    | .chain a r n x => if a = array && n = col then some (r, x) else none
    | _ => none

/-- The weights that the cells of an array's column hold. -/
def heldWeights (fs : List Part) (array col : Nat) (w : List LogVal) : List LogVal :=
  fs.foldl (fun w f => match f with
    | .weight a k n v => if a = array && n = col then modifyAt w k fun _ => v else w
    | _ => w) w

/-- The inputs that an array's row drivers carry into a berth. -/
def drivenInputs (fs : List Part) (array berth : Nat) (x : List LogVal) : List LogVal :=
  fs.foldl (fun x f => match f with
    | .input a b k v => if a = array && b = berth then modifyAt x k fun _ => v else x
    | _ => x) x

/-- The flip of one check value of a berth of an array. -/
def checkFlip (fs : List Part) (pick : Part → Option Nat) : Nat := (fs.filterMap pick).foldl (fun a x => a ^^^ x) 0

/-- The outputs of one berth for one input vector, its units with the faults `fs`. -/
def vecOut (fs : List Part) (p : Pass) (tiles : List (List Column)) (b : Berth) (x : List (LogVal × Bool)) : VecOut :=
  let xs := x.map Prod.fst
  let xb := x.any Prod.snd
  let cols := tiles.getD b.b []
  if p.bad then
    { x := xs, xBad := false, out := List.replicate p.cols { v := nanA40, cause := 0, k := 0 },
      bad := List.replicate p.cols false }
  else
    let driven := drivenInputs fs b.array b.b xs
    { x := xs, xBad := xb,
      out := (cols.zip (List.range cols.length)).map fun q =>
        let n := b.b * p.cols + q.2
        columnOut p.p (slotFlips fs b.array p.p n) (chainFlips fs b.array n) driven (heldWeights fs b.array n q.1.w),
      bad := cols.map fun q => xb || q.bad }

/-! ### Checks (R98, R99) -/

/-- Whether |x| ≤ 2^-20 × m, exactly. -/
def withinFloor (x m : A40) : Bool :=
  match decA40 x, decA40 m with
  | .fin _ a e, .fin _ b f => leMag a e b (f - 20)
  | _, _ => false

/-- Whether |s| ≤ (1 + 2^-20) × m, exactly. -/
def withinBound (s m : A40) : Bool :=
  match decA40 s, decA40 m with
  | .fin _ a e, .fin _ b f => leMag a e (b * (2 ^ 20 + 1)) (f - 20)
  | _, _ => false

/-- What the checks of a block find: failing vectors of C1 and C3, failing columns of C2, numbered within the block and
the array. -/
structure CheckRes where
  c1 : List Nat
  c2 : List Nat
  c3 : List Nat
  deriving DecidableEq, Repr

def CheckRes.pass (r : CheckRes) : Bool := r.c1.isEmpty && r.c2.isEmpty && r.c3.isEmpty

/-- The check sums of a block of a berth (Table 03.6): S and M by vector, E by column, and M_B. -/
structure Sums where
  s : List A40
  m : List A40
  e : List A40
  mb : A40
  deriving DecidableEq, Repr

/-- The check sums that an array forms for a block of inputs; `fs` are its faults by vector of the block, `bs` those of the block
(R84, R98). -/
def blockSums (fs : Nat → List Part) (bs : List Part) (p : Pass) (tiles : List (List Column)) (b : Berth) (xs : List (List LogVal)) :
    Sums :=
  let cols := tiles.getD b.b []
  let ks := List.range p.k
  let cw := ks.map fun k => tree a40Add 0 (cols.map fun q => encA40 ((q.w.getD k .zero).val))
  let mw := ks.map fun k => tree a40Add 0 (cols.map fun q => encA40 ((q.w.getD k .zero).mag.val))
  let driven := (xs.zip (List.range xs.length)).map fun e => drivenInputs (fs e.2) b.array b.b e.1
  let pick (f : Nat → Part → Option Nat) (l : List A40) : List A40 :=
    (l.zip (List.range l.length)).map fun e => flipped (checkFlip (fs e.2) (f e.2)) e.1
  let sv := pick (fun _ f => match f with
    | .sumColumn a n x => if a = b.array && n = b.b then some x else none
    | _ => none) (driven.map fun x => mixSum p.p cw x)
  let mv := pick (fun _ f => match f with
    | .magColumn a n x => if a = b.array && n = b.b then some x else none
    | _ => none) (driven.map fun x => mixSum p.p mw (x.map LogVal.mag))
  let xb := ks.map fun k => flipped (checkFlip bs fun f => match f with
    | .injected a n i x => if a = b.array && n = b.b && i = k then some x else none
    | _ => none) (xs.foldl (fun a x => a40Add a (encA40 ((x.getD k .zero).val))) 0)
  let e := (cols.zip (List.range cols.length)).map fun q =>
    let n := b.b * p.cols + q.2
    flipped (checkFlip bs fun f => match f with
      | .lane a i x => if a = b.array && i = n then some x else none
      | _ => none) (mixSum p.p xb (heldWeights bs b.array n q.1.w))
  { s := sv, m := mv, e := e, mb := mv.foldl a40Add 0 }

/-- The checks of Table 03.7 on results `ys` of one block of a berth against check sums; poisoned vectors and columns are skipped
(R99, R200). -/
def applyChecks (p : Pass) (tiles : List (List Column)) (b : Berth) (q : Sums) (xs : List VecOut) (ys : List (List Acc)) : CheckRes :=
  let cols := tiles.getD b.b []
  let colBad := cols.any Column.bad
  let vec := (ys.zip (xs.zip (q.s.zip q.m))).zip (List.range ys.length)
  let live := vec.filter fun e => !e.1.2.1.xBad && !colBad && e.1.1.all fun y => a40Finite y.v
  let c1 := live.filter fun e =>
    let s := e.1.2.2.1
    let t := tree a40Add 0 (e.1.1.map Acc.v)
    !(a40Finite s && a40Finite e.1.2.2.2 && withinFloor (a40Add s (a40Neg t)) e.1.2.2.2)
  let c3 := live.filter fun e => !(a40Finite e.1.2.2.2 && withinBound e.1.2.2.1 e.1.2.2.2)
  let c2 := (((cols.zip q.e).zip (List.range cols.length)).filter fun z =>
    let o := ys.foldl (fun a y => a40Add a (y.getD z.2 Acc.zero).v) 0
    let e := z.1.2
    !z.1.1.bad && a40Finite o && !(a40Finite e && a40Finite q.mb && withinFloor (a40Add e (a40Neg o)) q.mb)).map fun z =>
      b.b * p.cols + z.2
  { c1 := c1.map Prod.snd, c2 := c2, c3 := c3.map Prod.snd }

/-- The faults of a pass's core that act on vector `j` (R89: it enters in pass cycle 127 + j). -/
def Pass.partsOf (p : Pass) (ds : List Defect) (j : Nat) : List Part := partsAt ds p.core (some (p.t + 127 + j))

/-- The faults that act while a block runs, from its first vector's input to its verdict. -/
def Pass.blockParts (p : Pass) (ds : List Defect) (q : Nat) : List Part :=
  partsIn ds p.core (p.t + 127 + 64 * q) (p.t + p.lastOf q + 312)

/-- The check sums that a berth's own array forms for block `q`. -/
def ownSums (ds : List Defect) (p : Pass) (tiles : List (List Column)) (b : Berth) (q : Nat) (xs : List VecOut) : Sums :=
  blockSums (fun v => p.partsOf ds (64 * q + v)) (p.blockParts ds q) p tiles b (xs.map VecOut.x)

/-! ### Commit (R96, R97, R110, R111, R114) -/

namespace Chip

/-- ARR_FF of one element (R77, R111). -/
def arrayFirst (c : Chip) (core array berth cause : Nat) (kValid : Bool) (vector column k seq : Nat) : Chip :=
  c.latch (R.arrFF core array berth)
    (packF [(0, 1, 1), (1, 3, cause), (4, 1, kValid.toNat), (6, 11, vector), (17, 7, column), (24, 9, k), (36, 28, seq)])

/-- The charge of one element, with ARR_FF (R110, R111). -/
def arrayCharge (c : Chip) (core array berth cause : Nat) (kValid : Bool) (vector column k seq cycle : Nat) : Chip :=
  (c.charge core array cause cycle).arrayFirst core array berth cause kValid vector column k seq

/-- The accumulate source of vector `j`: values with poison (R89, R97). -/
def accSource (c : Chip) (p : Pass) (b : Berth) (j : Nat) : List (Nat × Bool) :=
  let a := b.al 224 48 + j * b.al 272 16
  let l := c.nearPeek p.core (4 + 16 * b.array) a (5 * p.cols)
  ((unpackAll 40 p.cols (plain l)).zip (List.range p.cols)).map fun e => (e.1, eltPoison 40 e.2 l)

/-- Commit vector `j` of a berth: `ys` its column outputs, `bad` their poison, `src` the accumulate source (R96, R97). -/
def commitVec (c : Chip) (p : Pass) (b : Berth) (j : Nat) (ys : List Acc) (bad : List Bool) (src : List (Nat × Bool)) : Chip :=
  match b.yFmt with
  | none => c
  | some f =>
    let cyc := p.commitCycle j
    let c := if b.accEn then c.nearNote p.core (4 + 16 * b.array) (b.al 224 48 + j * b.al 272 16) (5 * p.cols) else c
    let cells := (ys.zip bad).zip src
    let vs := cells.map fun e =>
      if e.1.2 || (b.accEn && e.2.2) then Src.bad
      else .val (decA40 (if b.accEn then a40Add (BitVec.ofNat 40 e.2.1) e.1.1.v else e.1.1.v))
    let r := b.rnd
    let ctx := c.drawCtx p.core
    let us := (List.range p.cols).map fun n =>
      if stochActs f r then some (ctx.u (0xE0 + 4 * b.array + b.b) (b.b * p.cols + n) cyc) else none
    let out := convRun f r (c.layerScale p.core (bits b.d 296 10) (bits b.d 306 1 == 1)) us vs
    let c := if stochActs f r then c.countDraws p.core (vs.filter (· != .bad)).length else c
    let c := c.nearWrite p.core (16 * b.array) (b.al 112 48 + j * b.al 160 16) (packElts f.width (out.elts.map fun e => e.getD (0, true)))
    let c := if f.isBlock then
        c.nearWrite p.core (16 * b.array) (b.al 176 48 + j * (p.cols / 32)) (packElts 8 (out.scales.map fun e => e.getD (0, true)))
      else c
    let c := c.saturate p.core (R.arrEvents p.core) 4 out.sat
    ((cells.zip out.elts).zip (List.range p.cols)).foldl (fun c e =>
      if (e.1.2.map Prod.snd) == some true then c
      else if e.1.1.1.1.cause ≠ 0 then
        c.arrayCharge p.core b.array b.b e.1.1.1.1.cause true j (b.b * p.cols + e.2) e.1.1.1.1.k p.seq cyc
      else if out.ovf.contains e.2 then c.arrayCharge p.core b.array b.b 5 false j (b.b * p.cols + e.2) 0 p.seq cyc
      else if out.beyond.contains e.2 then c.arrayFirst p.core b.array b.b 5 false j (b.b * p.cols + e.2) 0 p.seq
      else c) c

/-- Write vector `j` of a withheld block poisoned, scales included (R114). -/
def withholdVec (c : Chip) (p : Pass) (b : Berth) (j : Nat) : Chip :=
  match b.yFmt with
  | none => c
  | some f =>
    let c := c.nearWrite p.core (16 * b.array) (b.al 112 48 + j * b.al 160 16) (List.replicate (f.bytes p.cols) none)
    if f.isBlock then c.nearWrite p.core (16 * b.array) (b.al 176 48 + j * (p.cols / 32)) (List.replicate (p.cols / 32) none) else c

/-- Count a berth block committed or withheld (Table 03.20). -/
def countBlock (c : Chip) (core array : Nat) (committed : Bool) : Chip :=
  c.addField (R.arrBlocks core array) (if committed then 0 else 32) 32 1

/-- Physical array of a logical array (R25). -/
def physArray (c : Chip) (core array : Nat) : Nat :=
  let d := c.die (core / 2)
  let off := if core % 2 = 0 then d.disabled0 else d.disabled1
  if array < off then array else array + 1

/-- Any verdict (R109): ARR_VERDICT, the adjudication log, the hardware fault 0x01 with its drain. The log entry is written then, with the
localisation that ARR_LOC_a latches later (log entry 76, DESIGN CHOICE). -/
def verdict (c : Chip) (core seq : Nat) (a : Adj) : Chip :=
  let s := core / 2
  let c := c.latch (R.arrVerdict core a.array)
    (packF [(0, 1, 1), (1, 3, a.verdict), (4, 2, a.berth), (6, 5, a.block), (11, 1, a.c1.toNat), (12, 1, a.c2.toNat),
      (13, 1, a.c3.toNat), (14, 6, a.firstVec), (20, 7, a.firstCol), (28, 28, seq)])
  let i := c.regField (R.intAdjPtr s) 32 4
  let c := c.put (R.intAdjLog s i)
    (packF [(0, 1, 1), (1, 3, a.verdict), (4, 1, core % 2), (5, 2, a.array), (7, 3, c.physArray core a.array), (10, 2, a.berth),
      (12, 5, a.block), (17, 2, a.locStatus), (19, 9, a.locK), (28, 7, a.locCol),
      (35, 29, (c.reg (R.seqStep (c.basinOfCore core))).toNat)])
  let c := (c.setField (R.intAdjPtr s) 32 4 ((i + 1) % 16)).addField (R.intAdjPtr s) 0 32 1
  c.hwFault 1 s (core % 2) a.array

/-- ARR_LOC of an adjudicated block. -/
def localise (c : Chip) (core array status col k : Nat) : Chip :=
  c.latch (R.arrLoc core array)
    (packF [(0, 1, 1), (1, 2, status), (4, 7, col), (12, 9, k), (24, 2, array), (27, 3, c.physArray core array)])

end Chip

/-! ### Adjudication (R105 to R108) -/

/-- The first of the numbers of a check's failures, 0 where it found none (log entry 55, DESIGN CHOICE). -/
def firstOf (l : List Nat) : Nat := if l.isEmpty then 0 else l.foldl min 511

/-- What the twin and the probes will show for a failed block: the twin's results against the original check sums and its own, the
verdict, the localisation, and the results that commit. -/
def adjudicate (ds : List Defect) (p : Pass) (tiles : List (List Column)) (b : Berth) (q : Nat) (xs : List VecOut) (r : CheckRes) :
    Adj :=
  let now := partsAt ds p.core none
  let twin : Berth := { b with array := (b.array + 1) % 4 }
  let os := xs.map VecOut.out
  let ts := xs.map fun x => (vecOut now p tiles twin (x.x.map fun e => (e, false))).out
  let vals (l : List (List Acc)) := l.map fun y => y.map Acc.v
  let own := (applyChecks p tiles b (blockSums (fun _ => now) now p tiles twin (xs.map VecOut.x)) xs ts).pass
  let orig := (applyChecks p tiles b (ownSums ds p tiles b q xs) xs ts).pass
  let same := vals os == vals ts
  let code : Nat := if same && own then 1 else if !same && own && orig then 2 else 3
  let jv := ((vals os).zip (vals ts)).findIdx fun e => e.1 != e.2
  let col := (((vals os).getD jv []).zip ((vals ts).getD jv [])).findIdx fun e => e.1 != e.2
  let base := (xs.getD jv { x := [], xBad := false, out := [], bad := [] }).x
  let probed (a : Nat) (x : List LogVal) : List A40 := (vecOut now p tiles { b with array := a } (x.map fun e => (e, false))).out.map Acc.v
  let differs (x : List LogVal) : Bool := (probed b.array x).getD col 0 != (probed twin.array x).getD col 0
  let nbits := Nat.log2 p.k
  let probe (i : Nat) : Bool :=
    differs ((base.zip (List.range base.length)).map fun e => if bits e.2 i 1 = 1 then e.1 else .zero)
  let status : Nat := if code ≠ 2 then 3 else if !differs base then 1 else if differs (base.map fun _ => .zero) then 2 else 0
  let k := if status = 0 then (List.range nbits).foldl (fun a i => a + (probe i).toNat * 2 ^ i) 0 else 0
  { array := b.array, berth := b.b, block := q, verdict := code, c1 := !r.c1.isEmpty, c2 := !r.c2.isEmpty,
    c3 := !r.c3.isEmpty, firstVec := firstOf (r.c1 ++ r.c3), firstCol := r.c2.headD 0,
    locStatus := status, locCol := if code = 2 then b.b * p.cols + col else r.c2.headD 0, locK := k,
    outs := if code = 2 then ts else os, passSeq := p.seq, passStart := p.t, vectors := p.v }

/-- The record of a withheld block whose verdict is `code` (SHARED_FAULT, LOAD_FAULT): no probe has run (log entry 55, DESIGN CHOICE). -/
def withheldRec (p : Pass) (b : Berth) (q code : Nat) (r : CheckRes) : Adj :=
  { array := b.array, berth := b.b, block := q, verdict := code, c1 := !r.c1.isEmpty, c2 := !r.c2.isEmpty,
    c3 := !r.c3.isEmpty, firstVec := firstOf (r.c1 ++ r.c3), firstCol := r.c2.headD 0,
    locStatus := 3, locCol := r.c2.headD 0, locK := 0, outs := [], passSeq := p.seq, passStart := p.t, vectors := p.v }

/-- Whether a fault changes what an array computes or checks. -/
def Part.computes (array : Nat) : Part → Bool
  | .slot a .. | .weight a .. | .input a .. | .chain a .. | .sumColumn a .. | .magColumn a .. | .lane a .. | .injected a .. =>
    a == array
  | _ => false

/-- Whether an array latches a load wrongly: its own latch, or the loader where two or more arrays disagree (R85). -/
def loadFaulty (fs : List Part) (array : Nat) : Bool :=
  let bad (a : Nat) : Bool := fs.any (· == .load a)
  bad array || 2 ≤ ((List.range 4).filter bad).length

namespace Chip

/-- What the staging buffer and the two datapaths at commit make of a block that is to commit (R96): a double-bit error or a
disagreement withholds it, a single-bit error is corrected and counted. A disagreement in a commit cycle is known at the verdict, and
stands for the whole array (log entry 75, DESIGN CHOICE). -/
def releaseBlock (c : Chip) (core array : Nat) (fs : List Part) : Chip × Fate :=
  let s := core / 2
  let wrong := fs.filterMap fun f => match f with
    | .staging a n => if a = array then some n else none
    | _ => none
  if wrong.any (2 ≤ ·) then (c.hwFault 3 s (core % 2) array, .withhold)
  else if fs.any (· == .commit array) then ((c.event (R.intEvents s) 7).hwFault 2 s (core % 2) array, .withhold)
  else
    let one := (wrong.filter (· = 1)).length
    (if one = 0 then c else (c.events (R.intEvents s) 8 one).addField (R.intCorrected s) 0 32 one, .commit)

/-- The verdict of check block `q` of every berth in use, with its effects; `xs` are the berths' vectors of the block. An array
without a fault fails no check (R100), though its M_B be non-finite (log entry 73, DEDUCED); a load fault comes before a fault of shared
infrastructure (log entry 72, DESIGN CHOICE). -/
def judge (c : Chip) (p : Pass) (tiles : List (List Column)) (q : Nat) (bs : List (Berth × List VecOut)) : Chip × List Fate :=
  let fs := p.blockParts c.defects q
  let ld := partsIn c.defects p.core p.t (p.t + 128)
  let res := bs.map fun e =>
    if p.bad || !fs.any (Part.computes e.1.array) then ⟨[], [], []⟩
    else applyChecks p tiles e.1 (ownSums c.defects p tiles e.1 q e.2) e.2 (e.2.map VecOut.out)
  let all := bs.zip res
  let failing (a : Nat) : Nat := (all.filter fun e => e.1.1.array = a && !e.2.pass).length
  all.foldl (fun (acc : Chip × List Fate) e =>
    let c := acc.1
    let b := e.1.1
    let c := if e.2.pass then c else c.event (R.arrEvents p.core) 0
    if loadFaulty ld b.array then
      ((c.event (R.arrEvents p.core) 3).verdict p.core p.seq (withheldRec p b q 5 e.2), acc.2 ++ [.withhold])
    else if fs.any (· == .control b.array) || 2 ≤ failing b.array then
      ((c.event (R.arrEvents p.core) 2).verdict p.core p.seq (withheldRec p b q 4 e.2), acc.2 ++ [.withhold])
    else if !e.2.pass then
      (c.setCore p.core fun k => { k with adj := k.adj ++ [adjudicate c.defects p tiles b q e.1.2 e.2] }, acc.2 ++ [.wait])
    else
      let r := c.releaseBlock p.core b.array fs
      (r.1, acc.2 ++ [r.2])) (c, [])

end Chip

/-! ### A pass, cycle by cycle -/

/-- The last commit cycle of a pass. -/
def PassFl.last (f : PassFl) : Nat := f.p.commitCycle (f.p.v - 1)

/-- Where column `n` of a berth's tile starts, and its scales (R83, R85). -/
def tilePlace (p : Pass) (b n : Nat) : Nat × Nat :=
  (bits p.d (48 * b) 48 / 16 * 16 + n * p.wf.bytes p.k, bits p.d (192 + 48 * b) 48 / 16 * 16 + n * (p.k / 32))

/-- Read one row of the tile of every berth (R83, R89). -/
def PassFl.loadRow (c : Chip) (f : PassFl) (r : Nat) : PassFl :=
  let p := f.p
  { f with tiles := (f.tiles.zip (List.range f.tiles.length)).map fun e =>
      (e.1.zip (List.range e.1.length)).map fun q =>
        let at' := tilePlace p e.2 q.2
        let new := readOps c p.core 4 at'.1 at'.2 p.wf (p.p * r) p.p
        { w := q.1.w ++ new.map Prod.fst, bad := q.1.bad || new.any Prod.snd } }

/-- What reading that row records. -/
def PassFl.noteRow (c : Chip) (f : PassFl) (r : Nat) : Chip :=
  foldN f.p.berths (fun c b => foldN f.p.cols (fun c n =>
    let at' := tilePlace f.p b n
    noteOps c f.p.core 4 at'.1 at'.2 f.p.wf (f.p.p * r) f.p.p) c) c

/-- Read input vector `j` of every berth and form its outputs (R90, R91). -/
def PassFl.takeVec (c : Chip) (f : PassFl) (j : Nat) : PassFl :=
  let p := f.p
  let xs := if p.bad then f.bs.map fun _ => [] else (f.bs.zip f.held).map fun e =>
    let pl := inputPlace p e.1 j
    let new := readOps c p.core (4 + 16 * e.1.array) pl.1 pl.2.1 p.xf pl.2.2.1 pl.2.2.2
    if bits e.1.d 308 1 = 1 && j ≠ 0 then e.2.drop pl.2.2.2 ++ new else new
  { f with held := xs, outs := f.outs ++ [(j, (f.bs.zip xs).map fun e => vecOut (p.partsOf c.defects j) p f.tiles e.1 e.2)] }

/-- What reading that vector records. -/
def PassFl.noteVec (c : Chip) (f : PassFl) (j : Nat) : Chip :=
  if f.p.bad then c else f.bs.foldl (fun c b =>
    let pl := inputPlace f.p b j
    noteOps c f.p.core (4 + 16 * b.array) pl.1 pl.2.1 f.p.xf pl.2.2.1 pl.2.2.2) c

/-- Commit vector `j` of every berth by its fate (R96, R97, R114); the block counts with its last vector (Table 03.20). -/
def PassFl.commit (c : Chip) (f : PassFl) (j : Nat) : Chip :=
  let p := f.p
  let fates := (f.fates.find? fun e => e.1 = j / 64).elim [] Prod.snd
  let outs := (f.outs.find? fun e => e.1 = j).elim [] Prod.snd
  let c := if j = 0 then f.charges.foldl (fun c x =>
      c.arrayCharge p.core x.1 x.2.1 2 x.2.2.1 0 x.2.2.2 0 p.seq (p.commitCycle 0)) c else c
  (f.bs.zip (fates.zip outs)).foldl (fun c e =>
    let b := e.1
    let c := match e.2.1 with
      | .commit => c.commitVec p b j e.2.2.out e.2.2.bad (c.accSource p b j)
      | .withhold => c.withholdVec p b j
      | .wait => c
    if j = p.lastOf (j / 64) then c.countBlock p.core b.array (e.2.1 == .commit) else c) c

/-- The vector that commits in pass cycle `pc`. -/
def Pass.committing (p : Pass) (pc : Nat) : Option Nat :=
  ((List.range p.blocks).find? fun q => decide (p.commitStart q ≤ pc && pc < p.commitStart q + (p.lastOf q + 1 - 64 * q))).map
    fun q => 64 * q + (pc - p.commitStart q)

namespace Chip

/-- Replace a pass under way. -/
def setPass (c : Chip) (core : Nat) (f : PassFl) : Chip :=
  c.setCore core fun k => { k with passes := k.passes.map fun x => if x.p.t = f.p.t then f else x }

/-- A pass's work in the core's present cycle (R89, R93). -/
def passCycle (c : Chip) (core : Nat) (f : PassFl) : Chip :=
  let pc := (c.core core).cycle - f.p.t
  let c := c.acting core f.p.seq
  let load := !f.p.bad && decide (pc < 128)
  let g := if load then f.loadRow c pc else f
  let c := if load then f.noteRow c pc else c
  let feed := decide (127 ≤ pc && pc - 127 < f.p.v) && !f.bs.isEmpty
  let h := if feed then g.takeVec c (pc - 127) else g
  let c := if feed then g.noteVec c (pc - 127) else c
  match f.p.committing pc with
  | some j => (h.commit c j).setPass core { h with outs := h.outs.filter fun e => e.1 != j }
  | none => c.setPass core h

/-- The verdicts that stand at the end of the core's present cycle (R93). -/
def passVerdict (c : Chip) (core : Nat) (f : PassFl) : Chip :=
  let pc := (c.core core).cycle - f.p.t
  match (List.range f.p.blocks).find? fun q => f.p.lastOf q + 312 = pc with
  | none => c
  | some q =>
    let vs := f.outs.filter fun e => e.1 / 64 = q
    let xs := (f.bs.zip (List.range f.bs.length)).map fun e => (e.1, vs.filterMap fun v => v.2[e.2]?)
    let r := c.judge f.p f.tiles q xs
    r.1.setPass core { f with fates := f.fates ++ [(q, r.2)] }

/-- The berths a pass uses: enabled arrays whose descriptor reads clean. -/
def berthsOf (c : Chip) (core en split : Nat) (idx : Nat → Nat) : List Berth :=
  (List.range 4).flatMap fun a =>
    if bits en a 1 = 0 then [] else (List.range (2 ^ split)).filterMap fun b =>
      (c.descBytes core (4 + 16 * a) (idx a + b) 64).map fun l => { array := a, b := b, d := fromLE l }

/-- What reading the berth descriptors records. -/
def berthNotes (c : Chip) (core en split : Nat) (idx : Nat → Nat) : Chip :=
  (List.range 4).foldl (fun c a => if bits en a 1 = 0 then c else
    (List.range (2 ^ split)).foldl (fun c b => c.descNote core (4 + 16 * a) (idx a + b) 64) c) c

/-- Whether a pass of the core is still in LOAD, STREAM, DRAIN or CHECK at a cycle (R92). -/
def passBusy (c : Chip) (core cyc : Nat) : Bool :=
  let k := c.core core
  match k.passStart with
  | some t => cyc < t + k.passV + 312
  | none => false

/-- Array slot 0 issues a pass in cycle `t` (R86 to R97): `wi` the weight descriptor's index, `idx` the berth descriptors'. A berth with
a reserved output code takes no further part in the pass (log entry 74, DESIGN CHOICE). -/
def passIssue (c : Chip) (core t wi : Nat) (idx : Nat → Nat) : Chip :=
  let desc := c.descBytes core 4 wi 64
  let c := c.descNote core 4 wi 64
  match desc with
  | none => c
  | some l =>
    let d := fromLE l
    let c := if bits d 384 2 = 3 then c.schedErr core (R.arrEvents core) 5 1 else c
    let split := if bits d 384 2 = 3 then 0 else bits d 384 2
    let wf := Fmt.ofOperand (bits d 386 3)
    let xf := Fmt.ofOperand (bits d 389 3)
    let en := bits d 392 4
    let v := bits d 396 11 + 1
    let isBad := wf.isNone || xf.isNone
    let c := if isBad then c.schedErr core (R.arrEvents core) 5 1 else c
    let wf := wf.getD .l4
    let xf := xf.getD .l4
    let all := c.berthsOf core en split idx
    let c := c.berthNotes core en split idx
    let seq := (c.regField (R.arrPassStatus core) 0 28 + 1) % 2 ^ 28
    let c := c.setField (R.arrPassStatus core) 0 28 seq
    let p : Pass := { core := core, t := t, seq := seq, v := v, split := split, p := min wf.perCell xf.perCell, wf := wf, xf := xf,
                      bad := isBad, d := d }
    let dead := all.filter fun b => b.yFmt.isNone
    let bs := all.filter fun b => b.yFmt.isSome
    let c := dead.foldl (fun c b => c.schedErr core (R.arrEvents core) 5 (1 + b.array)) c
    let c := (bs.filter fun b => b.rnd.reserved).foldl (fun c b => c.schedErr core (R.arrEvents core) 5 (1 + b.array)) c
    let charges := if isBad then
        (if en = 0 then [] else [((List.range 4).findIdx fun a => bits en a 1 = 1, 0, true, 0)])
      else dead.map fun b => (b.array, b.b, false, b.b * p.cols)
    let f : PassFl := { p := p, bs := bs, tiles := List.replicate p.berths (List.replicate p.cols { w := [], bad := false }),
                        held := bs.map fun _ => [], outs := [], fates := [], charges := charges }
    let c := c.setCore core fun k =>
      { k with passStart := some t, passV := v, passSplit := split, passEn := en, passes := k.passes ++ [f] }
    c.passCycle core f

/-- The results that an adjudicated block of a pass commits, vector by vector (Table 03.10). -/
def settleOuts (a : Adj) (i : Nat) (outs : List (Nat × List VecOut)) : List (Nat × List VecOut) :=
  outs.map fun e => if e.1 / 64 = a.block then
      (e.1, modifyAt e.2 i fun v => { v with out := a.outs.getD (e.1 % 64) v.out })
    else e

/-- The verdict of an adjudication stands (edge 247; R106, R109): it is latched, recorded and drains the package; the block it resolves
is released to its commit cycles, any other is withheld. -/
def settle (c : Chip) (core : Nat) (a : Adj) : Chip :=
  let c := c.verdict core a.passSeq a
  let fs := ((c.core core).passes.find? fun f => f.p.t = a.passStart).elim [] fun f => f.p.blockParts c.defects a.block
  let r := if a.verdict = 3 then (c, Fate.withhold) else c.releaseBlock core a.array fs
  r.1.setCore core fun k => { k with passes := k.passes.map fun f =>
    if f.p.t ≠ a.passStart then f
    else
      let i := f.bs.findIdx fun b => b.array = a.array && b.b = a.berth
      { f with fates := f.fates.map fun e => if e.1 = a.block then (e.1, modifyAt e.2 i fun _ => r.2) else e,
               outs := settleOuts a i f.outs } }

/-- `x` edges of the adjudications under way in a core, one after another (R105, R107; Table 03.11): the verdict stands with edge 247, the
localisation with edge 422, and the adjudication completes with edge 1,023. -/
def adjEdges : Nat → Chip → Nat → Nat → Chip
  | 0, c, _, _ => c
  | fuel + 1, c, core, x =>
    match (c.core core).adjRun with
    | [] => c
    | (a, n) :: rest =>
      if x = 0 then c
      else
        let m := min (n + x) 1024
        let c := if n < 248 && 248 ≤ m then c.settle core a else c
        let c := if n < 423 && 423 ≤ m && a.verdict ≠ 3 then c.localise core a.array a.locStatus a.locCol a.locK else c
        if m < 1024 then c.setCore core fun k => { k with adjRun := (a, m) :: rest }
        else adjEdges fuel ((c.event (R.arrEvents core) 1).setCore core fun k => { k with adjRun := rest }) core (x - (m - n))

/-- ARR_PASS_STATUS as it reads at the core's present cycle (Table 03.15). -/
def passStatus (c : Chip) (core : Nat) : Word :=
  let k := c.core core
  let r := c.reg (R.arrPassStatus core)
  match k.passStart with
  | none => fset (fset r 32 2 k.passSplit) 36 4 k.passEn
  | some t =>
    let pc := k.cycle - t
    let v := k.passV
    let adj := (k.ebb.map fun e => e.pend.any fun q => q.cause = 3 && q.core = core && q.left != some 0) == some true
    let phase := if adj then 5 else if pc < 128 then 1 else if pc < 128 + v then 2 else if pc < 288 + v then 3
      else if pc < 312 + v then 4 else 0
    fset (fset (fset (fset r 28 3 phase) 32 2 k.passSplit) 36 4 k.passEn) 40 12 (min (pc - 127) v)

end Chip
end Sys2Proof.Machine
end

