-- ==== Sys2Proof/Machine/Mvu.lean ====
section
/-! DEFINITION. The matrix-vector unit (04_matrix_vector_unit.md): LOAD_VEC, MATVEC and BUILD. An operation reads
and writes in the cycles of R125, R127, R130 and R138. -/

namespace Sys2Proof.Machine

/-! ### The vector store (R138) -/

namespace Chip

/-- First byte address of a slot of a core's vector store. -/
def slotBase (core slot : Nat) : Nat := (core * 16 + slot) * 133120

/-- Bytes of the vector store. -/
def vsPeek (c : Chip) (a n : Nat) : List PByte :=
  tabulate n fun i =>
    if Sparse.get Mem.falseDefault c.vpoison ((a + i) / 8) then none else some (Sparse.get Mem.byteDefault c.vstore (a + i))

/-- Store bytes; a poisoned byte stores zero. -/
def vsStore (c : Chip) : Nat → List PByte → Chip
  | _, [] => c
  | a, x :: t => vsStore { c with vstore := Sparse.set Mem.byteDefault c.vstore a (x.getD 0) } (a + 1) t

/-- Wrong bits of a vector store's word. -/
def vsErrors (c : Chip) (w : Nat) : Nat := Sparse.get Mem.zeroDefault c.vsErr w

/-- The words that a range of the vector store touches. -/
def vsWords (a n : Nat) : List Nat := if n = 0 then [] else tabulate ((a + n - 1) / 8 - a / 8 + 1) (a / 8 + ·)

/-- Single-bit errors corrected in a range of a core's vector store (R138, Table 04.14) (log entry 56, DESIGN CHOICE). -/
def vsNote (c : Chip) (core a n : Nat) : Chip :=
  c.events (R.mvuEvents core) 4 ((vsWords a n).filter fun w => c.vsErrors w = 1).length

/-- Whether a word of a range has a double-bit error. -/
def vsLost (c : Chip) (a n : Nat) : Bool := (vsWords a n).any fun w => 2 ≤ c.vsErrors w

/-- Write bytes: a poisoned byte poisons its 64-bit word, a word written whole is cleared of poison and errors (Table 06.4); a word
written in part is read first: its single-bit error is corrected, and with a double-bit error it stays poisoned. -/
def vsPoke (c : Chip) (core a : Nat) (l : List PByte) : Chip :=
  let c1 := c.vsStore a l
  (vsWords a l.length).foldl (fun c1 w =>
    let part := (l.drop (8 * w - a)).take (min (8 * w + 8) (a + l.length) - max a (8 * w))
    let whole := part.length = 8
    let c2 := if whole then c1 else c1.vsNote core (8 * w) 1
    let c2 := { c2 with vsErr := Sparse.set Mem.zeroDefault c2.vsErr w 0 }
    if dirty part || (!whole && 2 ≤ c.vsErrors w) then { c2 with vpoison := Sparse.set Mem.falseDefault c2.vpoison w true }
    else if whole then { c2 with vpoison := Sparse.set Mem.falseDefault c2.vpoison w false }
    else c2) c1

/-- LOAD_VEC issues (R138, Table 04.5); with a reserved format it does nothing more (log entry 69, DESIGN CHOICE). -/
def loadVec (c : Chip) (core idx : Nat) (loose : Bool) (cyc : Nat) : Chip :=
  if decide (cyc ≤ (c.core core).ldvTo.getD 0) && (c.core core).ldvTo.isSome then c.schedErr core (R.mvuEvents core) 3 5
  else
    let desc := c.descBytes core 5 idx 64
    let c := c.descNote core 5 idx 64
    match desc with
    | none => c.markLoose core loose
    | some l =>
      let d := fromLE l
      match Fmt.ofOperand (bits d 96 3) with
      | none => c.schedErr core (R.mvuEvents core) 3 5
      | some f =>
        let blocks := bits d 103 11 + 1
        let n := blocks * 4 * f.width
        let ns := if f.isBlock then blocks else 0
        (c.markLoose core loose).setCore core fun k =>
          { k with ldvTo := some (cyc + ceilDiv n 1024 + ceilDiv ns 1024),
                   ldv := some { t0 := cyc, slot := bits d 99 4, xa := bits d 0 48 / 16 * 16, n := n, sa := bits d 48 48 / 16 * 16, ns := ns } }

/-- A LOAD_VEC's cycle: 1,024 bytes of codes, then of scales, from op cycle 1 on (R138). -/
def ldvCycle (c : Chip) (core : Nat) : Chip :=
  let k := c.core core
  match k.ldv with
  | none => c
  | some f =>
    let x := k.cycle - f.t0 - 1
    let nc := ceilDiv f.n 1024
    let codes := decide (x < nc)
    let off := 1024 * (if codes then x else x - nc)
    let n := min 1024 ((if codes then f.n else f.ns) - off)
    let a := (if codes then f.xa else f.sa) + off
    if k.cycle ≤ f.t0 || n = 0 then c
    else
      let data := c.nearPeek core 5 a n
      ((c.nearNote core 5 a n).vsPoke core (slotBase core f.slot + off + (if codes then 0 else 131072)) data)

/-! ### Weight images (R122 to R124) -/

end Chip

/-- Bytes of 32 codes: Z_32 of Table 04.3. -/
def Fmt.z32 (f : Fmt) : Nat := 4 * f.width
/-- Bytes of a panel's scales. -/
def Fmt.panelScales (f : Fmt) : Nat := if f.isBlock then 128 else 0
/-- Offset of a panel's sidecar entries. -/
def Fmt.sidecar (f : Fmt) : Nat := 128 * f.z32 + f.panelScales
/-- Panel size B_p (Table 04.3). -/
def Fmt.panel (f : Fmt) : Nat := f.sidecar + 256
/-- Row group size B_g (R122). -/
def Fmt.rowGroup (f : Fmt) (panels : Nat) : Nat := 128 + panels * f.panel

/-- One panel as it is received: weights of each output by reduction index, sidecar sums, poison. -/
structure Panel where
  w : List (List LogVal)    -- by output, 32 each
  bad : List Bool           -- by index within the panel: a poisoned weight or scale
  c : List A40
  m : List A40
  crcBytes : List PByte     -- codes, then scales
  anyBad : Bool             -- any byte
  deriving DecidableEq, Repr

/-- Decode a panel (Table 04.2). -/
def Panel.ofBytes (f : Fmt) (l : List PByte) : Panel :=
  let codes := chunks f.z32 (l.take (128 * f.z32))
  let scales := (l.drop (128 * f.z32)).take f.panelScales
  let side := (chunks 8 ((l.drop f.sidecar).take 256)).map fun e => fromLE (plain e)
  let sc (n : Nat) : PByte := if f.isBlock then scales.getD n none else some 127
  let rows := codes.zip (List.range codes.length)
  { w := rows.map fun r => (unpackAll f.width 32 (plain r.1)).map fun x => decLog f x ((sc r.2).getD 0).toNat,
    bad := tabulate 32 fun k => rows.any fun r => sc r.2 == none || (dirty r.1 && eltPoison f.width k r.1),
    c := side.map fun e => BitVec.ofNat 40 (bits e 0 40), m := side.map fun e => BitVec.ofNat 40 (bits e 40 24 * 2 ^ 16),
    crcBytes := l.take f.sidecar, anyBad := dirty l }

/-- The panels of a row group's bytes after its header. -/
def panelsOf (f : Fmt) (l : List PByte) : List Panel := (chunks f.panel (l.drop 128)).map (Panel.ofBytes f)

/-- The CRC-32C of a segment's codes and scales (R124). -/
def segCrc (ps : List Panel) : Nat := (ps.foldl (fun s p => crcRun 1 s (plain p.crcBytes)) (crcInit 1)) ^^^ crcXor 1

/-- m rounded up to 12 fraction bits, as 24 bits (R123). -/
def roundM (m : A40) : Nat :=
  if a40Finite m then m.toNat / 2 ^ 16 + (if m.toNat % 2 ^ 16 = 0 then 0 else 1) else m.toNat / 2 ^ 16

/-- The sidecar entry of one reduction index (R123). -/
def sidecarEntry (col : List LogVal) : Nat :=
  let c := tree a40Add 0 (col.map fun w => encA40 w.val)
  let m := tree a40Add 0 (col.map fun w => encA40 w.mag.val)
  c.toNat + roundM m * 2 ^ 40

/-! ### The accumulation order (R129) -/

/-- A partial sum with the highest reduction index that entered it. -/
structure AccHi where
  a : Acc
  hi : Nat
  deriving DecidableEq, Repr

def AccHi.add (x y : AccHi) : AccHi := { a := Acc.add y.hi x.a y.a, hi := y.hi }

/-- A slice's sum: a pairwise tree over `n` leaves, missing leaves +0 (R126, R129). -/
def sliceSum (n : Nat) (l : List AccHi) : AccHi :=
  let hi := (l.getLast?.map AccHi.hi).getD 0
  tree AccHi.add { a := Acc.zero, hi := hi } (l ++ List.replicate (n - l.length) { a := Acc.zero, hi := hi })

/-- A segment's sum over its slices of `n` leaves (R129). -/
def segSum (n : Nat) (l : List AccHi) : AccHi :=
  (chunks n l).foldl (fun s q => AccHi.add s (sliceSum n q)) { a := Acc.zero, hi := 0 }

/-- The leaves of one output: products with R64 and R67, a standing fault's flip by leaf of the slice. -/
def leaves (n first : Nat) (fl : List (Nat × Nat)) (x w : List LogVal) : List AccHi :=
  ((x.zip w).zip (List.range w.length)).map fun e =>
    { a := slotProduct (flipOf fl (e.2 % n)) (first + e.2) e.1.1 e.1.2, hi := first + e.2 }

/-- The leaves of a check sum (R134): products of R68. -/
def mixLeaves (x : List LogVal) (a : List A40) : List AccHi :=
  (x.zip a).map fun e => { a := { v := mixProduct e.2 e.1, cause := 0, k := 0 }, hi := 0 }

/-! ### Operations -/

namespace Matvec
def al (m : Matvec) (lo w : Nat) : Nat := bits m.d lo w / 16 * 16
def wAddr (m : Matvec) : Nat := bits m.d 0 48 / 128 * 128
def groups (m : Matvec) : Nat := bits m.d 280 11 + 1
def panels (m : Matvec) : Nat := bits m.d 291 11 + 1
def k (m : Matvec) : Nat := 32 * m.panels
def per (m : Matvec) : Nat := min m.wf.perCell m.xf.perCell
/-- k_slice (Table 04.7). -/
def slice (m : Matvec) : Nat := 16 * m.per
def h (m : Matvec) : Nat := (m.slots.length + 1) / 2
/-- Q (R127). -/
def slices (m : Matvec) : Nat := ceilDiv m.k m.slice
def qh (m : Matvec) : Nat := m.slices * m.h
/-- Op cycle of a row group's header, and of its last intake (R127). -/
def header (m : Matvec) (g : Nat) : Nat := 1 + g * (1 + m.qh)
def lastIntake (m : Matvec) (g : Nat) : Nat := m.header g + m.qh
/-- Pipeline depth D under a contract (Table 04.8). -/
def depth (m : Matvec) (contract : Nat) : Nat :=
  if m.per = 4 then 24 else if m.per = 1 then 34 else if contract = 2 then 22 else 30
end Matvec

/-- Commit cycle of each row group's first slot: C_g = max(V_g + 1, E + 1) (R130). -/
def commitStarts (m : Matvec) (cyc d nv : Nat) (e : Option Nat) : List Nat :=
  ((List.range m.groups).foldl (fun (acc : List Nat × Option Nat) g =>
    let v := cyc + m.lastIntake g + d + 16
    let c := max (v + 1) ((acc.2.map (· + 1)).getD 0)
    (acc.1 ++ [c], some (c + nv - 1))) ([], e)).1

/-- The MVU's faults among those of its core: flips of product slots by output and leaf, of segment sums by output, of S and M. -/
structure MvuFlips where
  slots : Nat → List (Nat × Nat)
  sums : Nat → Nat
  s : Nat
  m : Nat

def MvuFlips.of (fs : List Part) : MvuFlips :=
  let all (pick : Part → Option Nat) : Nat := (fs.filterMap pick).foldl (fun a x => a ^^^ x) 0
  { slots := fun o => fs.filterMap fun f => match f with
      | .mvuSlot n i x => if n = o then some (i, x) else none
      | _ => none,
    sums := fun o => all fun f => match f with
      | .mvuSum n x => if n = o then some x else none
      | _ => none,
    s := all fun f => match f with
      | .mvuCheck x _ => some x
      | _ => none,
    m := all fun f => match f with
      | .mvuCheck _ x => some x
      | _ => none }

/-- One segment: per active vector its 128 sums and check results. -/
def segment (n first : Nat) (fl : MvuFlips) (ps : List Panel) (crcOk skip : Bool) (r : Resident) :
    List AccHi × Bool × Bool :=
  let len := 32 * ps.length
  let x := (r.x.drop first).take len
  let rows := tabulate 128 fun o => ps.flatMap fun p => p.w.getD o []
  let segs := (rows.zip (List.range 128)).map fun w =>
    let s := segSum n (leaves n first (fl.slots w.2) x w.1)
    { s with a := { s.a with v := flipped (fl.sums w.2) s.a.v } }
  if skip || r.bad || r.lost.isSome || !crcOk || segs.any (fun s => !a40Finite s.a.v) then (segs, false, false)
  else
    let s := flipped fl.s (segSum n (mixLeaves x (ps.flatMap Panel.c))).a.v
    let m := flipped fl.m (segSum n (mixLeaves (x.map LogVal.mag) (ps.flatMap Panel.m))).a.v
    let t := tree a40Add 0 (segs.map fun s => s.a.v)
    let fin := a40Finite s && a40Finite m
    (segs, !(fin && withinFloor (a40Add s (a40Neg t)) m), !(fin && withinBound s m))

/-- A row group of a MATVEC: sums, CRCs and checks (R129, R134, R135). -/
def groupOut (m : Matvec) (fl : MvuFlips) (bytes : List PByte) (rs : List Resident) : GroupOut :=
  let segs := chunks 64 (panelsOf m.wf bytes)
  let header := bytes.take 128
  let hBad := dirty header
  let info := (segs.zip (List.range segs.length)).map fun s =>
    let bad := hBad || s.1.any Panel.anyBad
    (s.2, s.1, bad, bad || segCrc s.1 == leAt (plain header) (4 * s.2) 4)
  let res := rs.map fun r => (r.slot, info.map fun s => (s.1, segment m.slice (2048 * s.1) fl s.2.1 s.2.2.2 s.2.2.1 r))
  { outs := res.map fun r => tabulate 128 fun o =>
      (r.2.foldl (fun t s => AccHi.add t (s.2.1.getD o { a := Acc.zero, hi := 0 })) ({ a := Acc.zero, hi := 0 } : AccHi)).a,
    imageBad := info.any fun s => s.2.2.1,
    stale := (info.filter fun s => !s.2.2.2).map fun s => s.1,
    c1 := res.flatMap fun r => (r.2.filter fun s => s.2.2.1).map fun s => (s.1, r.1),
    c3 := res.flatMap fun r => (r.2.filter fun s => s.2.2.2).map fun s => (s.1, r.1),
    lost := rs.filterMap fun r => r.lost.map fun s => (s, r.slot) }

namespace Chip

/-- Where elements `e` to `e + n - 1` of a slot lie: codes, and scales of a block format. -/
def slotPlaces (core slot : Nat) (f : Fmt) (e n : Nat) : List (Nat × Nat) :=
  let base := slotBase core slot
  (base + e * f.width / 8, f.bytes n) ::
    if f.isBlock then [(base + 131072 + e / 32, (e + n - 1) / 32 - e / 32 + 1)] else []

/-- Elements `e` to `e + n - 1` of a slot as it stands, decoded as `f`, and whether a byte of them is poisoned (R138). -/
def slotOps (c : Chip) (core slot : Nat) (f : Fmt) (e n : Nat) : List LogVal × Bool :=
  let base := slotBase core slot
  let l := c.vsPeek (base + e * f.width / 8) (f.bytes n)
  let sc := if f.isBlock then c.vsPeek (base + 131072 + e / 32) ((e + n - 1) / 32 - e / 32 + 1) else []
  (((unpackAll f.width n (plain l)).zip (List.range n)).map fun x =>
      decLog f x.1 ((plain sc).getD ((e + x.2) / 32 - e / 32) 127).toNat,
    dirty l || dirty sc)

/-- MVU_FF of one output (R77, R137). -/
def mvuFirst (c : Chip) (core cause : Nat) (kValid : Bool) (slot n k opSeq : Nat) : Chip :=
  c.latch (R.mvuFF core)
    (packF [(0, 1, 1), (1, 3, cause), (4, 1, kValid.toNat), (6, 4, slot), (10, 18, n), (28, 16, k), (44, 20, opSeq)])

/-- The charge of one output, with MVU_FF (R137). -/
def mvuCharge (c : Chip) (core cause : Nat) (kValid : Bool) (slot n k opSeq cycle : Nat) : Chip :=
  (c.charge core 4 cause cycle).mvuFirst core cause kValid slot n k opSeq

/-- Commit the `r`-th active slot of row group `g` (R133). -/
def mvuCommit (c : Chip) (core : Nat) (m : Matvec) (f : Fmt) (g r slot opSeq cyc : Nat) (ys : List Acc) (bad : Bool) : Chip :=
  let accEn := bits m.d 321 1 == 1
  let a := m.al 176 48 + r * m.al 224 32 + 640 * g
  let l := if accEn then c.nearPeek core 5 a 640 else []
  let c := if accEn then c.nearNote core 5 a 640 else c
  let src := unpackAll 40 128 (plain l)
  let vs := (ys.zip (List.range 128)).map fun e =>
    if bad || (accEn && eltPoison 40 e.2 l) then Src.bad
    else .val (decA40 (if accEn then a40Add (BitVec.ofNat 40 (src.getD e.2 0)) e.1.v else e.1.v))
  let rnd := Rnd.ofBits (bits m.d 306 4)
  let ctx := c.drawCtx core
  let us := (List.range 128).map fun n => if stochActs f rnd then some (ctx.u 0xF0 n cyc) else none
  let out := convRun f rnd (c.layerScale core (bits m.d 310 10) (bits m.d 320 1 == 1)) us vs
  let c := if stochActs f rnd then c.countDraws core (vs.filter (· != .bad)).length else c
  let c := c.nearWrite core 1 (m.al 48 48 + r * m.al 96 32 + g * 16 * f.width) (packElts f.width (out.elts.map fun e => e.getD (0, true)))
  let c := if f.isBlock then
      c.nearWrite core 1 (m.al 128 48 + r * (4 * m.groups) + 4 * g) (packElts 8 (out.scales.map fun e => e.getD (0, true)))
    else c
  let c := c.saturate core (R.mvuEvents core) 2 out.sat
  ((ys.zip out.elts).zip (List.range 128)).foldl (fun c e =>
    if (e.1.2.map Prod.snd) == some true then c
    else if e.1.1.cause ≠ 0 then c.mvuCharge core e.1.1.cause true slot (128 * g + e.2) e.1.1.k opSeq cyc
    else if out.ovf.contains e.2 then c.mvuCharge core 5 false slot (128 * g + e.2) 0 opSeq cyc
    else if out.beyond.contains e.2 then c.mvuFirst core 5 false slot (128 * g + e.2) 0 opSeq
    else c) c

/-- Write the `r`-th active slot's outputs of a withheld row group poisoned (R135). -/
def mvuWithhold (c : Chip) (core : Nat) (m : Matvec) (f : Fmt) (g r : Nat) : Chip :=
  let c := c.nearWrite core 1 (m.al 48 48 + r * m.al 96 32 + g * 16 * f.width) (List.replicate (16 * f.width) none)
  if f.isBlock then c.nearWrite core 1 (m.al 128 48 + r * (4 * m.groups) + 4 * g) (List.replicate 4 none) else c

/-- The verdict of a row group (Table 04.10): whether it is withheld. MVU_CHECK_REC names the lowest failing segment and the lowest
failing slot, 0 where a disagreement of the two datapaths alone withholds it; one that shows in a commit cycle withholds the row group
from its first (log entry 57, DEDUCED). -/
def mvuVerdict (c : Chip) (core : Nat) (f : MvuFl) (x : RowGroup) : Chip × Bool :=
  let opSeq := f.seq
  let go := x.out
  let dup := (partsIn c.defects core (f.t0 + f.m.header x.g) (x.commit + f.m.slots.length - 1)).any (· == .mvuCommit)
  let fails := go.c1 ++ go.c3 ++ go.lost
  let fault := !fails.isEmpty || dup
  let held := fault || !go.stale.isEmpty
  let seg := if fault then firstOf (fails.map Prod.fst) else go.stale.headD 0
  let slot := if fault then firstOf (fails.map Prod.snd) else 0
  let c := if !held then c else
    (c.event (R.mvuEvents core) (if fault then 1 else 0)).latch (R.mvuCheckRec core)
      (packF [(0, 1, 1), (1, 1, fault.toNat), (2, 1, (!go.c1.isEmpty).toNat), (3, 1, (!go.c3.isEmpty).toNat),
        (4, 5, seg), (10, 11, x.g), (21, 4, slot), (25, 24, opSeq)])
  let c := if dup then (c.event (R.intEvents (core / 2)) 7).hwFault 2 (core / 2) (core % 2) 4 else c
  (if fault then c.hwFault 4 (core / 2) (core % 2) 4 else c, held)

/-- Hold a stream engine for the MVU (R128). -/
def holdEngine (c : Chip) (core e to' : Nat) : Chip := c.setEngine core e fun g => { g with heldTo := some to' }

/-- Begin a MATVEC or BUILD: op_seq, and the cycles the MVU is occupied to (R131). -/
def mvuBegin (c : Chip) (core kind cyc last row active : Nat) : Chip :=
  let seq := (c.regField (R.mvuOpStatus core) 0 24 + 1) % 2 ^ 24
  (c.setField (R.mvuOpStatus core) 0 24 seq).setCore core fun k =>
    { k with mvuIssue := cyc, mvuKind := kind, mvuLastIntake := some last, mvuRowCycles := row, mvuActive := active }

/-- MATVEC issues (R120, R127 to R132); a reserved operand format has the cycles of L4 (log entry 69, DESIGN CHOICE). -/
def matvec (c : Chip) (core idx : Nat) (loose : Bool) (cyc : Nat) : Chip :=
  let desc := c.descBytes core 5 idx 64
  let c := c.descNote core 5 idx 64
  match desc with
  | none => c.markLoose core loose
  | some l =>
    let d := fromLE l
    let wf := Fmt.ofOperand (bits d 258 3)
    let xf := Fmt.ofOperand (bits d 261 3)
    let m : Matvec := { d := d, wf := wf.getD .l4, xf := xf.getD .l4, bad := wf.isNone || xf.isNone,
                        slots := (List.range 16).filter fun v => bits d (264 + v) 1 = 1 }
    let se := bits d 256 2
    if m.slots.isEmpty || c.engineBusy core se cyc then c.schedErr core (R.mvuEvents core) 3 5
    else
      let c := c.markLoose core loose
      let f := Fmt.ofOutput (bits d 302 4)
      let rnd := Rnd.ofBits (bits d 306 4)
      let c := if m.bad || f.isNone || rnd.reserved then c.schedErr core (R.mvuEvents core) 3 5 else c
      let contract := (c.basin (c.basinOfCore core)).contract
      let last := cyc + m.lastIntake (m.groups - 1)
      let c := (c.mvuBegin core 1 cyc last (1 + m.qh) (bits d 264 16)).holdEngine core se last
      let starts := commitStarts m cyc (m.depth contract) m.slots.length (c.core core).mvuLastCommit
      c.setCore core fun k =>
        { k with mvuLastCommit := some (starts.getLast?.getD cyc + m.slots.length - 1),
                 mvus := k.mvus ++ [{ build := false, m := m, t0 := cyc, groups := m.groups, starts := starts,
                                      seq := c.regField (R.mvuOpStatus core) 0 24, len := if m.bad then 0 else m.groups * m.wf.rowGroup m.panels, reader := se,
                                      writer := none, fed := 0, buf := [], ahead := 0, f := f, bytes := [], xs := [], ready := [] }] }

/-- BUILD issues (R125, R128); with a reserved format it does nothing more, and its writing engine is held for the whole of the span
that R128 bounds (log entry 69, DESIGN CHOICE). -/
def build (c : Chip) (core idx : Nat) (loose : Bool) (cyc : Nat) : Chip :=
  let desc := c.descBytes core 5 idx 64
  let c := c.descNote core 5 idx 64
  match desc with
  | none => c.markLoose core loose
  | some l =>
    let d := fromLE l
    let r := bits d 48 2
    let w := bits d 50 2
    match Fmt.ofOperand (bits d 52 3) with
    | none => c.schedErr core (R.mvuEvents core) 3 5
    | some f =>
      if r = w || c.engineBusy core r cyc || c.engineBusy core w cyc then c.schedErr core (R.mvuEvents core) 3 5
      else
        -- a MATVEC with one active vector, at the rate of the weight format alone (R125)
        let m : Matvec := { d := bits d 0 48 + bits d 55 11 * 2 ^ 280 + bits d 66 11 * 2 ^ 291, wf := f, xf := f, bad := false, slots := [0] }
        let last := cyc + m.lastIntake (m.groups - 1)
        let c := (((c.markLoose core loose).mvuBegin core 2 cyc last (1 + m.qh) 0).holdEngine core r last).holdEngine core w (last + 2064)
        c.setCore core fun k =>
          { k with mvus := k.mvus ++ [{ build := true, m := m, t0 := cyc, groups := m.groups, starts := [],
                                        seq := c.regField (R.mvuOpStatus core) 0 24, len := m.groups * f.rowGroup m.panels, reader := r,
                                        writer := some w, fed := 0, buf := [], ahead := 0, f := none, bytes := [], xs := [], ready := [] }] }

end Chip

/-- The last cycle of an operation: its last commit, or the ordering deadline of a BUILD's last header (R128). -/
def MvuFl.last (f : MvuFl) : Nat :=
  if f.groups = 0 then f.t0
  else if f.build then f.t0 + f.m.lastIntake (f.groups - 1) + 2064
  else f.starts.getD (f.groups - 1) f.t0 + f.m.slots.length - 1

/-- The panels whose first index lies in slice `q`, and those whose last does. -/
def Matvec.panelsFrom (m : Matvec) (q : Nat) : List Nat :=
  (List.range m.panels).filter fun p => decide (q * m.slice ≤ 32 * p && 32 * p < (q + 1) * m.slice)
def Matvec.panelsTo (m : Matvec) (q : Nat) : List Nat :=
  (List.range m.panels).filter fun p => decide (q * m.slice ≤ 32 * p + 31 && 32 * p + 31 < (q + 1) * m.slice)

namespace Chip

def setMvu (c : Chip) (core : Nat) (f : MvuFl) : Chip :=
  c.setCore core fun k => { k with mvus := k.mvus.map fun x => if x.t0 = f.t0 then f else x }

/-- Bytes of the image that an operation still takes; none for a reserved operand format. -/
def imageLen (f : MvuFl) : Nat := if f.m.bad then 0 else f.groups * f.m.wf.rowGroup f.m.panels

/-- Request the next `n` bytes of an image, in the order in which they are taken in (R212, R214): they land, host reads of a window
image leave, and what lies outside the core's own stack is prefetched 64 KiB ahead. -/
def requestImage (c : Chip) (core : Nat) (f : MvuFl) (n : Nat) : Chip × MvuFl :=
  let b := c.basinOfCore core
  let a := f.m.wAddr + f.fed
  let own := match c.farMap b a with
    | some d => decide (d < 20 * stackSize) && d / stackSize == core / 2
    | none => false
  let data := if isWindow a then List.replicate n (some 0) else c.farSeen core b false a n
  let c := if isWindow a then c.sendReads core b a n false (fun _ => 0) f.reader 0 0 else c.farNote core b 5 false a n
  let hi := a + n + 65536
  let lo := max (a + n) f.ahead
  let c := if own then c else (piecesOf lo (hi - lo)).foldl (fun c p => match c.farMap b p.a with
    | some d => c.prefetchLine core b d false
    | none => c) c
  (c, { f with fed := f.fed + n, buf := f.buf ++ data, ahead := hi })

/-- An edge of a core's feed: up to 64 lines requested, as far as the 64 KiB landing buffer has space and its stack
is in no window (R203, R212, R214). -/
def feedEdge (c : Chip) (core : Nat) : Chip :=
  match (c.core core).mvus.getLast? with
  | none => c
  | some f =>
    let n := min 8192 (min (65536 - f.buf.length) (imageLen f - f.fed))
    if n = 0 || c.closedTo core (c.basinOfCore core) false { a := f.m.wAddr + f.fed, n := 1 } then c
    else
      let r := c.requestImage core f n
      r.1.setMvu core r.2

/-- Take the next `n` bytes of the image; what has not landed is requested now, and window data is read as it has arrived. -/
def takeImage (c : Chip) (core : Nat) (f : MvuFl) (n : Nat) : Chip × MvuFl :=
  let r := if n ≤ f.buf.length then (c, f) else c.requestImage core f (n - f.buf.length)
  let b := r.1.basinOfCore core
  let a := f.m.wAddr + (r.2.fed - r.2.buf.length)
  let data := if isWindow a then r.1.farSeen core b false a n else r.2.buf.take n
  (if isWindow a then r.1.farNote core b 5 false a n else r.1, { r.2 with buf := r.2.buf.drop n, bytes := r.2.bytes ++ data })

/-- Sidecar entries of the panels that slice `q` completes, and the header with the last slice (R123 to R125) (log entry 26, DEDUCED). -/
def buildSlice (c : Chip) (core : Nat) (f : MvuFl) (g q : Nat) : Chip :=
  let b := c.basinOfCore core
  let wf := f.m.wf
  let a := f.m.wAddr + g * wf.rowGroup f.m.panels
  let ps := panelsOf wf f.bytes
  let c := (f.m.panelsTo q).foldl (fun c i => match ps[i]? with
    | none => c
    | some p =>
      let entries := (List.range 32).flatMap fun k =>
        if p.bad.getD k true then List.replicate 8 none
        else clean (toLE 8 (sidecarEntry (p.w.map fun r => r.getD k .zero)))
      c.farWrite core b 1 2 false (a + 128 + i * wf.panel + wf.sidecar) entries) c
  if q + 1 < ceilDiv f.m.k f.m.slice then c
  else
    let header := (chunks 64 ps).flatMap fun s =>
      if s.any fun p => dirty p.crcBytes then List.replicate 4 none else clean (toLE 4 (segCrc s))
    c.farWrite core b 1 2 false a (header ++ List.replicate (128 - header.length) (some 0))

/-- Append a slice's elements to the vectors of a pair; a double-bit error is noted with the segment it lies in. -/
def takeSlice (c : Chip) (core : Nat) (f : MvuFl) (q h : Nat) : Chip × MvuFl :=
  let m := f.m
  let e := q * m.slice
  let n := min m.slice (m.k - e)
  let mine := (f.xs.zip (List.range f.xs.length)).filter fun x => x.2 / 2 = h
  let places := mine.flatMap fun x => slotPlaces core x.1.slot m.xf e n
  (places.foldl (fun c p => c.vsNote core p.1 p.2) c,
    { f with xs := (f.xs.zip (List.range f.xs.length)).map fun x =>
        if x.2 / 2 = h then
          let l := c.slotOps core x.1.slot m.xf e n
          let lost := (slotPlaces core x.1.slot m.xf e n).any fun p => c.vsLost p.1 p.2
          { x.1 with x := x.1.x ++ l.1, bad := x.1.bad || l.2,
                     lost := if x.1.lost.isNone && lost then some (e / 2048) else x.1.lost }
        else x.1 })

/-- The row group whose products are all taken (R129, R130, R134). -/
def groupReady (c : Chip) (core : Nat) (f : MvuFl) (g : Nat) : MvuFl :=
  let m := f.m
  let contract := (c.basin (c.basinOfCore core)).contract
  let fs := partsIn c.defects core (f.t0 + m.header g) (f.t0 + m.lastIntake g)
  let bytes := fs.foldl (fun l x => match x with
    | .mvuImage off flip => modifyAt l off fun b => b.map fun v => v ^^^ BitVec.ofNat 8 flip
    | _ => l) f.bytes
  let go : GroupOut := if m.bad then
      { outs := f.xs.map fun _ => List.replicate 128 { v := nanA40, cause := 0, k := 0 }, imageBad := false, stale := [], c1 := [],
        c3 := [], lost := [] }
    else groupOut m (MvuFlips.of fs) bytes f.xs
  { f with bytes := [], xs := [],
           ready := f.ready ++ [{ g := g, verdict := f.t0 + m.lastIntake g + m.depth contract + 16,
                                  commit := f.starts.getD g 0, out := go, bad := f.xs.map Resident.bad, held := false }] }

/-- An operation's intake in the core's present cycle (R126, R127). -/
def mvuIntake (c : Chip) (core : Nat) (f : MvuFl) : Chip × MvuFl :=
  let m := f.m
  let x := (c.core core).cycle - f.t0
  let g := (x - 1) / (1 + m.qh)
  let r := (x - 1) % (1 + m.qh)
  if x = 0 || f.groups ≤ g then (c, f)
  else if r = 0 then
    let f := { f with bytes := [], xs := if f.build then [] else m.slots.map fun s => { slot := s, x := [], bad := false, lost := none } }
    if m.bad then (c, f) else c.takeImage core f 128
  else
    let q := (r - 1) / m.h
    let h := (r - 1) % m.h
    let a := if h = 0 && !m.bad then (m.panelsFrom q).foldl (fun (a : Chip × MvuFl) _ => a.1.takeImage core a.2 m.wf.panel) (c, f)
      else (c, f)
    if f.build then (a.1.buildSlice core a.2 g q, a.2)
    else
      let a := if m.bad then a else a.1.takeSlice core a.2 q h
      (a.1, if r = m.qh then a.1.groupReady core a.2 g else a.2)

/-- The commit of a row group's slot that falls in the core's present cycle (R130, R133, R135); reserved formats of operands and outputs
make one charge (log entry 69, DESIGN CHOICE). -/
def mvuCommits (c : Chip) (core : Nat) (f : MvuFl) (x : RowGroup) : Chip :=
  let cyc := (c.core core).cycle
  let r := cyc - x.commit
  match f.m.slots[r]? with
  | none => c
  | some slot =>
    if cyc < x.commit then c
    else
      let c := if r = 0 then c.addField (R.mvuRowGroups core) (if x.held then 32 else 0) 32 1 else c
      let c := if x.g = 0 && r = 0 && (f.m.bad || f.f.isNone) then
          c.mvuCharge core 2 f.m.bad (f.m.slots.headD 0) 0 0 f.seq cyc else c
      match f.f with
      | none => c
      | some y =>
        if x.held then c.mvuWithhold core f.m y x.g r
        else c.mvuCommit core f.m y x.g r slot f.seq cyc (x.out.outs.getD r []) (x.out.imageBad || (x.bad.getD r false && !f.m.bad))

/-- An operation's work in the core's present cycle. -/
def mvuCycle (c : Chip) (core : Nat) (f : MvuFl) : Chip :=
  let a := (c.acting core f.seq).mvuIntake core f
  let c := a.2.ready.foldl (fun c x => c.mvuCommits core a.2 x) a.1
  let cyc := (c.core core).cycle
  c.setMvu core { a.2 with ready := a.2.ready.filter fun x => cyc + 1 < x.commit + a.2.m.slots.length }

/-- Verdicts of row groups that stand at the end of the core's present cycle (R130, R135). -/
def mvuVerdicts (c : Chip) (core : Nat) (f : MvuFl) : Chip :=
  let cyc := (c.core core).cycle
  let r := f.ready.foldl (fun (a : Chip × List RowGroup) x =>
    if x.verdict = cyc then
      let v := a.1.mvuVerdict core f x
      (v.1, a.2 ++ [{ x with held := v.2 }])
    else (a.1, a.2 ++ [x])) (c, [])
  r.1.setMvu core { f with ready := r.2 }

/-- The MVU slot: 1 LOAD_VEC, 2 MATVEC, 3 BUILD (Table 07.3); a MATVEC or BUILD before the MVU may take one is a schedule
error (R131, R132). -/
def mvuIssue (c : Chip) (core op idx : Nat) (loose : Bool) (cyc : Nat) : Chip :=
  if op = 0 then c
  else if op = 1 then c.loadVec core idx loose cyc
  else if decide (cyc ≤ (c.core core).mvuLastIntake.getD 0) && (c.core core).mvuLastIntake.isSome then
    c.schedErr core (R.mvuEvents core) 3 5
  else if op = 2 then c.matvec core idx loose cyc
  else c.build core idx loose cyc

/-- MVU_OP_STATUS as it reads at the core's present cycle (Table 04.13). -/
def mvuStatus (c : Chip) (core : Nat) : Word :=
  let k := c.core core
  let r := c.reg (R.mvuOpStatus core)
  let on := decide (k.cycle ≤ k.mvuLastIntake.getD 0) && k.mvuLastIntake.isSome
  let loading := decide (k.cycle ≤ k.ldvTo.getD 0) && k.ldvTo.isSome
  let row := if on && k.mvuIssue < k.cycle then (k.cycle - k.mvuIssue - 1) / max k.mvuRowCycles 1 else 0
  fset (fset (fset (fset r 24 2 (if on then k.mvuKind else 0)) 26 1 loading.toNat) 28 11 row) 40 16
    (if on && k.mvuKind = 1 then k.mvuActive else 0)

end Chip
end Sys2Proof.Machine
end

