-- ==== Sys2Proof/Machine/Vector.lean ====
section
/-! DEFINITION. The vector engine (05_vector_engine.md): CHAIN with its stages, tags, reduction and register timing, cycle by
cycle. -/

namespace Sys2Proof.Machine

/-! ### Operands and stages -/

def TRec.ofBits (d : Nat) : TRec :=
  { addr := bits d 0 48 / 16 * 16, saddr := bits d 48 48 / 16 * 16, fmt := bits d 96 4, rnd := Rnd.ofBits (bits d 100 4),
    layer := bits d 104 10, layerEn := bits d 114 1 == 1, en := bits d 115 1 == 1, gstream := bits d 116 8,
    s1 := signed 32 (bits d 128 32), s2 := signed 32 (bits d 160 32), s3 := signed 32 (bits d 192 32) }

/-- The format a record names, if the record is enabled and the code is not reserved. -/
def TRec.use (t : TRec) : Option Fmt := if t.en then Fmt.ofOutput t.fmt else none

namespace VDesc
def op (v : VDesc) : Nat := bits v.d 0 4
def stages (v : VDesc) : Nat := bits v.d 4 4 + 1
def vl0 (v : VDesc) : Nat := bits v.d 8 9 + 1
def vt (v : VDesc) : Nat := bits v.d 17 9 + 1
def vtEn (v : VDesc) : Bool := bits v.d 26 1 == 1
def vl1 (v : VDesc) : Nat := bits v.d 27 12 + 1
def vl2 (v : VDesc) : Nat := bits v.d 39 12 + 1
def vl3 (v : VDesc) : Nat := bits v.d 51 12 + 1
def redOp (v : VDesc) : Nat := bits v.d 63 2
def argmax (v : VDesc) : Bool := bits v.d 65 1 == 1 && v.redOp == 2
def scope (v : VDesc) : Nat := bits v.d 66 1
def n (v : VDesc) : Nat := v.vl1 * v.vl2 * v.vl3
def rows (v : VDesc) : Nat := v.vl2 * v.vl3
def i1 (v : VDesc) (n : Nat) : Nat := n % v.vl1
def i2 (v : VDesc) (n : Nat) : Nat := n / v.vl1 % v.vl2
def i3 (v : VDesc) (n : Nat) : Nat := n / (v.vl1 * v.vl2)
/-- Active lanes of lane-vector `n` (R150). -/
def active (v : VDesc) (n : Nat) : Nat := if v.vtEn && v.i1 n + 1 = v.vl1 then v.vt else v.vl0
/-- The tensor record at a byte offset of the descriptor. -/
def tensor (v : VDesc) (off : Nat) : TRec := TRec.ofBits (bits v.d (8 * off) 256)
def stageWord (v : VDesc) (j : Nat) : Nat := bits v.d (8 * (0x90 + 4 * j)) 32
/-- Scalar P_i. -/
def p (v : VDesc) (i : Nat) : F32 := BitVec.ofNat 32 (bits v.d (8 * (0xC0 + 4 * i)) 32)
/-- Optimiser fields (Table 05.19). -/
def opt (v : VDesc) (lo w : Nat) : Nat := bits v.d (8 * 0xB0 + lo) w
end VDesc

/-- Element offset of lane-vector `n` in a tensor (R150). -/
def eltOff (v : VDesc) (t : TRec) (n : Nat) : Int := v.i1 n * t.s1 + v.i2 n * t.s2 + v.i3 n * t.s3
/-- Element offset of a row (R162, R171). -/
def rowOff (v : VDesc) (t : TRec) (row : Nat) : Int := (row % v.vl2 : Nat) * t.s2 + (row / v.vl2 : Nat) * t.s3

/-- A byte address from a base and an element offset. -/
def eltAddr (base : Nat) (e : Int) (w : Nat) : Nat := (((base : Int) + e * w / 8) % (2 ^ 48 : Int)).toNat

def Stg.ofBits (w : Nat) : Stg :=
  { kind := bits w 0 4, func := bits w 4 4, selB := bits w 8 6, selC := bits w 14 6, wreg := bits w 20 5, wen := bits w 25 1 == 1,
    fill := bits w 26 1 == 1 }

/-- Whether a stage reads operand b, and operand c (Table 05.7); `ta` says that tensor A is enabled. -/
def Stg.readsB (s : Stg) (ta : Bool) : Bool :=
  match s.kind with
  | 0 => !ta
  | 1 => true
  | 2 => true
  | 3 => true
  | 8 => true
  | 9 => s.func ≤ 2
  | 10 => s.func != 2
  | 11 => true
  | _ => false
def Stg.readsC (s : Stg) : Bool :=
  match s.kind with
  | 3 => true
  | 8 => s.func < 8
  | 9 => s.func == 2
  | _ => false

/-- Variants listed for a stage kind (Tables 05.7, 05.9; R158). -/
def Stg.listed (s : Stg) : Bool :=
  match s.kind with
  | 1 => s.func ≤ 2
  | 3 => s.func ≤ 2
  | 8 => s.func % 8 ≤ 5
  | 9 => s.func ≤ 4
  | 10 => s.func ≤ 3
  | 11 => s.func ≤ 3
  | k => k ≤ 12 && s.func == 0

/-- Stage latency under a contract (Table 05.10). -/
def stageLat (contract kind : Nat) : Nat :=
  match kind with
  | 0 => 4
  | 1 => 3
  | 2 => 3
  | 3 => 4
  | 4 => if contract = 2 then 7 else 10
  | 5 => if contract = 2 then 8 else 12
  | 6 => 8
  | 7 => 8
  | 8 => 2
  | 9 => 2
  | 10 => 3
  | 11 => 1
  | _ => 4

def one32 : F32 := 0x3F800000
def ninf32 : F32 := 0xFF800000
def pinf32 : F32 := 0x7F800000
def fnan (x : F32) : Bool := (decF32 x).isNan
def finf (x : F32) : Bool := (decF32 x).isInf
def ffin (x : F32) : Bool := (decF32 x).isFinite
def fzero (x : F32) : Bool := (decF32 x).isZero

/-- The arithmetic stages' result on x, b and c (Table 05.7). -/
def arith (s : Stg) (x b c : F32) : F32 :=
  match s.kind, s.func with
  | 1, 0 => f32Add x b
  | 1, 1 => f32Sub x b
  | 1, _ => f32Sub b x
  | 2, _ => f32Mul x b
  | 3, 0 => f32Fma x b c
  | 3, 1 => f32Fma x b (f32Neg c)
  | 3, _ => f32Fma (f32Neg x) b c
  | 4, _ => f32Exp2 x
  | 5, _ => f32Log2 x
  | 6, _ => f32Recip x
  | 7, _ => f32Rsqrt x
  | 9, 0 => f32Min x b
  | 9, 1 => f32Max x b
  | 9, 2 => f32Min (f32Max x b) c
  | 9, 3 => f32Abs x
  | 9, _ => f32Neg x
  | _, _ => x

/-- The cause of a stage's non-finite result from the operands it read (R164). -/
def stageCause (s : Stg) (r x : F32) (ops : List F32) : Nat :=
  if fnan r then
    if ops.any fnan then 1
    else if (s.kind = 2 || s.kind = 3) && (ops.take 2).any finf && (ops.take 2).any fzero then 2
    else if s.kind = 5 || s.kind = 7 then 6 else 3
  else if ops.any finf then 4
  else if (5 ≤ s.kind && s.kind ≤ 7) && fzero x then 7 else 5

/-- An integer-valued FP32 (R158). -/
def intOf (x : F32) : Option Int :=
  match decF32 x with
  | .fin n m e =>
    if m = 0 then some 0
    else if 0 ≤ e then some (if n then -((m <<< e.toNat : Nat) : Int) else (m <<< e.toNat : Nat))
    else if m % 2 ^ (-e).toNat = 0 then some (if n then -((m >>> (-e).toNat : Nat) : Int) else (m >>> (-e).toNat : Nat)) else none
  | _ => none

/-- Source lane of destination lane `d` (R158); none where it is out of range. -/
def permSource (func a d : Nat) (b : List Opnd) : Option Nat :=
  let r := intOf (b.headD { val := 0 }).val
  let s : Option Int := match func with
    | 0 => intOf (b.getD d { val := 0 }).val
    | 1 => r.map fun r => ((d : Int) + r) % (a : Int)
    | 2 => some ((a : Int) - 1 - d)
    | _ => r.bind fun r => if 0 ≤ r then some ((d ^^^ r.toNat : Nat) : Int) else none
  s.bind fun s => if 0 ≤ s && s < a then some s.toNat else none

/-- Whether MASK masks a lane (Table 05.9). -/
def maskHit (func pos : Nat) (b : F32) : Bool :=
  match func with
  | 0 => !(fzero b)
  | 1 => f32Rel 4 (f32OfNat pos) b
  | 2 => f32Rel 2 (f32OfNat pos) b
  | _ => f32Rel 5 (f32OfNat pos) b

/-- One lane of a stage other than LOAD-CONVERT, PERMUTE and CONVERT-OUT: the result with its tags, and the values read. CMP-SELECT takes
the tags of what it selects alone (log entry 78, DEDUCED). -/
def laneStage (s : Stg) (pos : Nat) (x : Opnd) (b c : Option Opnd) : Opnd × List F32 :=
  let bv := b.getD { val := 0 }
  let cv := c.getD { val := 0 }
  let ops := x.val :: ((b.map Opnd.val).toList ++ (c.map Opnd.val).toList)
  let tags (v : F32) : Opnd :=
    { val := v, poison := x.poison || (b.isSome && bv.poison) || (c.isSome && cv.poison),
      mask := x.mask || (b.isSome && bv.mask) || (c.isSome && cv.mask) }
  if s.kind = 8 then
    let h := f32Rel (s.func % 8) x.val bv.val
    if 8 ≤ s.func then (tags (if h then one32 else 0), ops)
    else if h then ({ cv with cause := 0 }, ops) else ({ x with cause := 0 }, ops)
  else if s.kind = 11 then
    if maskHit s.func pos bv.val then
      ({ val := if s.fill then 0 else ninf32, mask := !s.fill, poison := x.poison || bv.poison }, ops)
    else ({ x with cause := 0 }, [x.val])
  else (tags (arith s x.val bv.val cv.val), ops)

/-! ### Tensor reads and writes -/

/-- Convert one stored element to FP32 (R72, R79): value, cause, saturation. -/
def loadElt (f : Fmt) (r : Rnd) (ls : Int) (code scale : Nat) : F32 × Nat × Bool :=
  let v := decElt f code scale
  let v := if f.isLog && ls != 0 then v.scale (-ls) else v
  let x := toF32 r v
  (BitVec.ofNat 32 x.code, if v.isNan then 1 else if v.isInf then 4 else if x.ovf then 5 else if x.sat then 8 else 0, x.sat)

namespace Chip

/-- Elements `e` to `e + n - 1` of a tensor as FP32 operands, with the count of saturations (R150, R152, R155). Their conversion begins in
the cycle that reads them, tensor B's too (R181) (log entry 81, DESIGN CHOICE). -/
def vload (c : Chip) (core : Nat) (t : TRec) (f : Fmt) (e : Int) (n : Nat) : List Opnd × Nat :=
  if f.isBlock && e % 32 != 0 then (List.replicate n { val := 0, poison := true }, 0)
  else
    let l := c.nearPeek core 6 (eltAddr t.addr e f.width) (f.bytes n)
    let sc := if f.isBlock then c.nearPeek core 6 (eltAddr t.saddr (e / 32) 8) ((n + 31) / 32) else []
    let d := dirty l
    let ls := c.layerScale core t.layer t.layerEn
    let xs := ((unpackAll f.width n (plain l)).zip (List.range n)).map fun p =>
      let s := if f.isBlock then sc.getD (p.2 / 32) none else some 127
      let bad := (d && eltPoison f.width p.2 l) || s == none
      let r := loadElt f t.rnd ls p.1 (s.getD 0).toNat
      (({ val := r.1, poison := bad, cause := if bad then 0 else r.2.1 } : Opnd), r.2.2 && !bad)
    (xs.map Prod.fst, (xs.filter fun x => x.2).length)

/-- What that read records. -/
def vloadNote (c : Chip) (core : Nat) (t : TRec) (f : Fmt) (e : Int) (n : Nat) : Chip :=
  if f.isBlock && e % 32 != 0 then c.schedErr core (R.vecEvents core) 3 6
  else
    let c := c.nearNote core 6 (eltAddr t.addr e f.width) (f.bytes n)
    if f.isBlock then c.nearNote core 6 (eltAddr t.saddr (e / 32) 8) ((n + 31) / 32) else c

/-- Convert and write a run of lanes to a tensor in the present cycle by one of the write paths (R151, R154, R182). Gives the
indices that charge OVERFLOW, and those that overflow in either mode (R77). -/
def vstoreRun (c : Chip) (core path : Nat) (t : TRec) (f : Fmt) (e : Int) (vs : List Src) (ls : Int) : Chip × List Nat × List Nat :=
  if f.isBlock && e % 32 != 0 then (c.schedErr core (R.vecEvents core) 3 6, [], [])
  else
    let n := vs.length
    let vs := if f.isBlock then vs ++ List.replicate ((32 - n % 32) % 32) Src.off else vs
    let st := stochActs f t.rnd
    let ctx := c.drawCtx core
    let cyc := (c.core core).cycle
    let ag := 2 + 16 * path
    let us := (List.range vs.length).map fun i => if st then some (ctx.u t.gstream i cyc) else none
    let out := convRun f t.rnd (if t.layerEn then ls else 0) us vs
    let c := if st then c.countDraws core (vs.filter fun v => match v with
      | .val _ => true
      | _ => false).length else c
    let c := c.nearWrite core ag (eltAddr t.addr e f.width) (packElts f.width (out.elts.map fun x => x.getD (0, false)))
    let c := if f.isBlock then
        c.nearWrite core ag (eltAddr t.saddr (e / 32) 8) (packElts 8 (out.scales.map fun x => x.getD (0, false)))
      else c
    (c.saturate core (R.vecEvents core) 2 out.sat, out.ovf, out.beyond)

end Chip

/-! ### The reduction tree (R162, R163) -/

/-- One combination: value and position; none is an identity. -/
def comb (red : Nat) (a b : Option (F32 × Nat)) : Option (F32 × Nat) :=
  match a, b with
  | none, b => b
  | a, none => a
  | some a, some b =>
    if red = 1 then some (f32Add a.1 b.1, a.2)
    else if fnan a.1 then some (nanF32, a.2)
    else if fnan b.1 then some (nanF32, b.2)
    else if red = 2 then some (f32Max a.1 b.1, if f32Rel 4 b.1 a.1 then b.2 else a.2)
    else some (f32Min a.1 b.1, if f32Rel 2 b.1 a.1 then b.2 else a.2)

/-- The tree over one lane-vector: inactive and mask-tagged lanes are identities. -/
def redTree (red pos0 : Nat) (l : List Opnd) : RedRes :=
  let on := l.filter fun x => !x.mask
  let nodes := (l.zip (List.range l.length)).map fun e => if e.1.mask then none else some (e.1.val, pos0 + e.2)
  { v := tree (comb red) none (nodes ++ List.replicate (512 - l.length) none), poison := on.any Opnd.poison,
    clean := on.all fun x => !x.poison && ffin x.val }

/-- The level-1 combiner: tree results in ascending i1. -/
def redJoin (red : Nat) (l : List RedRes) : RedRes :=
  { v := l.foldl (fun a r => comb red a r.v) none, poison := l.any RedRes.poison, clean := l.all RedRes.clean }

/-- The value a reduction writes (R163). -/
def redValue (red : Nat) (argmax : Bool) (r : RedRes) : F32 :=
  match r.v with
  | some x => if argmax then f32OfNat x.2 else x.1
  | none => if argmax then 0xBF800000 else if red = 1 then 0x80000000 else if red = 2 then ninf32 else pinf32

/-! ### Vector registers (R147, R160) -/

def laneDefault : Nat → Lane := fun _ => { val := 0, mask := false, poison := false }
def vrKey (core reg lane : Nat) : Nat := (core * 32 + reg) * 512 + lane
/-- Wrong bits of a register word, two lanes of 32 bits (R147). -/
def vrErrors (c : Chip) (w : Nat) : Nat := Sparse.get Mem.zeroDefault c.vrErr w
/-- Whether a lane stands in a word with a double-bit error. -/
def vrLost (c : Chip) (core reg lane : Nat) : Bool := 2 ≤ vrErrors c (vrKey core reg lane / 2)
/-- Lane 0 to n − 1 of a register as it reads: a double-bit error poison-tags both lanes of its word (R185). -/
def vrRead (c : Chip) (core reg n : Nat) : List Opnd :=
  tabulate n fun l => let x := Sparse.get laneDefault c.vregs (vrKey core reg l)
    { val := x.val, mask := x.mask, poison := x.poison || vrLost c core reg l }
/-- Put a register write into effect. A word written whole is rid of its errors; a word written in part keeps them (log entry 56,
DESIGN CHOICE). -/
def vrApply (core : Nat) (c : Chip) (w : VrWrite) : Chip :=
  let n := w.lanes.length
  { c with vregs := (w.lanes.zip (List.range n)).foldl (fun vr e => Sparse.set laneDefault vr (vrKey core w.reg e.2) e.1) c.vregs,
           vrErr := foldN (n / 2) (fun es i => Sparse.set Mem.zeroDefault es (vrKey core w.reg (2 * i) / 2) 0) c.vrErr }

/-- Insert by cycle, then stage. -/
def vrInsert (w : VrWrite) : List VrWrite → List VrWrite
  | [] => [w]
  | x :: t => if w.cycle < x.cycle || (w.cycle = x.cycle && w.stage < x.stage) then w :: x :: t else x :: vrInsert w t

namespace Chip

/-- Put into effect every register write of a cycle before the present one. -/
def vrSettle (c : Chip) (core : Nat) : Chip :=
  let k := c.core core
  if k.vrPend.isEmpty then c
  else
    let due (w : VrWrite) : Bool := decide (w.cycle < k.cycle)
    (k.vrPend.filter due).foldl (vrApply core) (c.setCore core fun k => { k with vrPend := k.vrPend.filter fun w => !due w })

/-! ### Charges and faults (R164 to R167, R185) -/

/-- Whether the operation that issued in cycle `t0` may put its record where one of the engine's records stands: none is held, or
the one held is its own and names a later place (R158, R167). -/
def ownsFirst (c : Chip) (core t0 cause a : Nat) (later : Word → Bool) : Bool :=
  !fbit (c.reg a) 0 || ((c.core core).firsts.contains (cause, t0) && later (c.reg a))

/-- An event of the record: it is put there, or finds one held. -/
def putFirst (c : Chip) (core t0 cause a : Nat) (w : Word) (later : Word → Bool) : Chip :=
  if !c.ownsFirst core t0 cause a later then c.latch a w
  else ((if fbit (c.reg a) 0 then c.put a w else c.latch a w)).setCore core fun k =>
    { k with firsts := (cause, t0) :: k.firsts.filter fun x => x.1 != cause }

/-- VEC_FF_c at the lowest lane-vector and lane of the operation that charged first (R77, R167). -/
def vecFirst (c : Chip) (core t0 seq cause stage n lane : Nat) : Chip :=
  c.putFirst core t0 cause (R.vecFF core cause) (packF [(0, 1, 1), (1, 4, stage), (5, 9, lane), (14, 36, n), (50, 14, seq)])
    fun w => n < fget w 14 36 || (n = fget w 14 36 && lane < fget w 5 9)

/-- A charge of the engine: counters and record (R166, R167). -/
def vecCharge (c : Chip) (core t0 seq cause stage n lane : Nat) : Chip :=
  (c.charge core 5 cause (c.core core).cycle).vecFirst core t0 seq cause stage n lane

/-- PERMUTE_RANGE: one event a lane-vector, the record at the operation's lowest (R158). -/
def permRange (c : Chip) (core t0 seq n lane : Nat) : Chip :=
  let c := c.event (R.vecEvents core) 0
  let c := c.putFirst core t0 0 (R.vecPermuteRec core) (packF [(0, 1, 1), (1, 9, lane), (11, 36, n), (48, 14, seq)])
    fun w => n < fget w 11 36
  c.auditTrap core 7 6

/-- A failed check in the engine (R185). -/
def vecFault (c : Chip) (core kind opt stage lane n seq : Nat) : Chip :=
  ((c.event (R.vecEvents core) 4).latch (R.vecFaultRec core)
    (packF [(0, 1, 1), (1, 2, kind), (3, 1, opt), (4, 4, stage), (8, 9, lane), (17, 36, n), (53, 11, seq)])).hwFault 5 (core / 2)
    (core % 2) 5

/-- A read of lanes 0 to n − 1 of a vector register: a single-bit error of a word is corrected and counted, a double-bit error is a
fault of its lower lane (R147, R185). -/
def vrNote (c : Chip) (core reg lanes stage n seq : Nat) : Chip :=
  let ws := (List.range ((lanes + 1) / 2)).map (2 * ·)
  let errors (l : Nat) : Nat := vrErrors c (vrKey core reg l / 2)
  (ws.filter fun l => 2 ≤ errors l).foldl (fun c l => c.vecFault core 3 0 stage l n seq)
    (c.events (R.vecEvents core) 8 (ws.filter fun l => errors l = 1).length)

/-- A lane-vector read by an operation: lv_read, while it is the latest that R474 counts. -/
def lvRead (c : Chip) (core seq : Nat) : Chip :=
  if c.regField (R.vecOpStatus core) 0 24 = seq then c.addField (R.vecOpStatus core) 32 32 1 else c

/-- Read elements of a tensor in the present cycle: lanes, and the chip with what the reading records. -/
def vread (c : Chip) (core : Nat) (t : TRec) (f : Fmt) (e : Int) (n : Nat) : List Opnd × Chip :=
  let l := c.vload core t f e n
  (l.1, (c.vloadNote core t f e n).saturate core (R.vecEvents core) 2 l.2)

/-- Read elements of a tensor for a composite: a first overflow of the reading is recorded at stage 14, and nothing is charged (R77, R164,
R167). -/
def compRead (c : Chip) (core t0 seq : Nat) (t : TRec) (f : Fmt) (e : Int) (lv n : Nat) : List Opnd × Chip :=
  let l := c.vread core t f e n
  (l.1, match l.1.findIdx? fun x => x.cause = 5 || x.cause = 8 with
    | some i => l.2.vecFirst core t0 seq 5 14 lv i
    | none => l.2)

/-- Whether a write path is free in the present cycle; it is taken (R161). Two writes on it are a hazard (R188). Path 2 is no path
of the rule (log entry 23, DEDUCED). -/
def takePath (c : Chip) (core path : Nat) : Bool × Chip :=
  let w := (c.core core).now
  let taken (p : Bool) (c : Chip) : Chip := if p then c.auditTrap core 0x0A 6 else c
  if path = 0 then (!w.pathD, taken w.pathD (c.setNow core fun w => { w with pathD := true }))
  else if path = 1 then (!w.pathR, taken w.pathR (c.setNow core fun w => { w with pathR := true }))
  else (true, c)

end Chip

/-! ### The engine's checks (R183, R184) -/

/-- Whether a check finds an error: the floor of Table 05.22. -/
def VecCheck.finds (chk : VecCheck) (err : Nat) : Bool :=
  match chk with
  | .residue => err % 7 != 0
  | .parity => ((List.range 32).filter fun i => err.testBit i).length % 2 == 1
  | .copies => err != 0

/-- VEC_FAULT_REC.kind of a failed check. -/
def VecCheck.kind : VecCheck → Nat
  | .residue => 0
  | .parity => 1
  | .copies => 2

/-- What an error that its check misses leaves of a value: a wrong significand is off by `err` of its lowest places, a wrong table
entry or lane has the bits of `err` turned (log entry 6, DESIGN CHOICE). -/
def VecCheck.alter (chk : VecCheck) (err : Nat) (x : F32) : F32 :=
  match chk with
  | .residue => x + BitVec.ofNat 32 err
  | .parity => x ^^^ BitVec.ofNat 32 err
  | .copies => x

/-- Whether a stage kind holds a check (R183). -/
def VecCheck.covers (chk : VecCheck) (kind : Nat) : Bool :=
  match chk with
  | .residue => decide (1 ≤ kind && kind ≤ 7)
  | .parity => decide (4 ≤ kind && kind ≤ 7) || kind == 10
  | .copies => kind != 10

/-- Errors in the lanes of one result: those found poison-tag their lane, those missed change it. Gives what was found, with its
lane. -/
def hurtLanes (es : List (Nat × VecCheck × Nat)) (xs : List Opnd) : List Opnd × List (Nat × VecCheck) :=
  es.foldl (fun a e =>
    if a.1.length ≤ e.1 then a
    else if e.2.1.finds e.2.2 then (modifyAt a.1 e.1 fun x => { x with poison := true }, a.2 ++ [(e.1, e.2.1)])
    else (modifyAt a.1 e.1 fun x => { x with val := e.2.1.alter e.2.2 x.val }, a.2)) (xs, [])

namespace Chip

/-- The faults of a core's vector engine that act in its present cycle. -/
def vecParts (c : Chip) (core : Nat) : List Part := partsAt c.defects core (some (c.core core).cycle)

/-- Errors of stage `j` by lane. -/
def stageErrors (c : Chip) (core j kind : Nat) : List (Nat × VecCheck × Nat) :=
  (c.vecParts core).filterMap fun p => match p with
    | .vec s l chk err => if s = j && chk.covers kind then some (l, chk, err) else none
    | _ => none

/-- Failed checks, by lane (R185). -/
def vecFaults (c : Chip) (core stage n seq : Nat) (l : List (Nat × VecCheck)) : Chip :=
  l.foldl (fun c e => c.vecFault core e.2.kind 0 stage e.1 n seq) c

/-- The tree's result under its faults: residues check additions, copies every combination. -/
def treeHurt (c : Chip) (core red stage n seq : Nat) (r : RedRes) : Chip × RedRes :=
  (c.vecParts core).foldl (fun (a : Chip × RedRes) p => match p with
    | .vecTree chk err =>
      if chk = .parity || (chk = .residue && red ≠ 1) then a
      else if chk.finds err then (a.1.vecFault core chk.kind 0 stage 0 n seq, { a.2 with poison := true })
      else (a.1, { a.2 with v := a.2.v.map fun x => (chk.alter err x.1, x.2) })
    | _ => a) (c, r)

/-- A conversion into tensor D (path 0) or R (path 1) whose two datapaths differ in a lane writes that lane poisoned (R183, R185). -/
def convHurt (c : Chip) (core path stage n seq : Nat) (vs : List Src) : Chip × List Src :=
  (c.vecParts core).foldl (fun (a : Chip × List Src) p => match p with
    | .vecConv q l => if q = path && l < vs.length then
        (a.1.vecFault core 2 0 stage l n seq, modifyAt a.2 l fun _ => .bad) else a
    | _ => a) (c, vs)

end Chip

/-! ### CHAIN (R153 to R167) -/

/-- An operand of a stage (Table 05.6). -/
def operand (o : VOp) (c : Chip) (lv : LvSt) (j sel a : Nat) : List Opnd :=
  if sel < 32 then vrRead c o.core sel a
  else if sel < 48 then List.replicate a { val := o.v.p (sel - 32) }
  else if sel = 48 then ((lv.b.find? fun e => e.1 = j && e.2.1 = 48).map fun e => e.2.2).getD []
  else if sel = 49 then tabulate a fun l => { val := f32OfNat (o.v.i1 lv.n * o.v.vl0 + l) }
  else if sel = 50 then List.replicate a { val := 0 }
  else if sel = 51 then List.replicate a { val := one32 }
  else List.replicate a ((((lv.b.find? fun e => e.1 = j && e.2.1 = 52).map fun e => e.2.2).getD []).headD { val := 0 })

/-- Charge lanes that have not charged yet: (lane, cause); a saturation is recorded alone (R77). -/
def chargeLanes (o : VOp) (c : Chip) (lv : LvSt) (j : Nat) (l : List (Nat × Nat)) : Chip × LvSt :=
  l.foldl (fun (a : Chip × LvSt) e =>
    if a.2.charged.contains e.1 || e.2 = 0 then a
    else if e.2 = 8 then (a.1.vecFirst o.core o.t0 o.seq 5 j lv.n e.1, a.2)
    else (a.1.vecCharge o.core o.t0 o.seq e.2 j lv.n e.1, { a.2 with charged := e.1 :: a.2.charged })) (c, lv)

/-- A result's charges: non-finite, untagged lanes (R164). -/
def resultCharges (w : Stg) (xs : List Opnd) (res : List (Opnd × List F32)) : List (Nat × Nat) :=
  ((xs.zip res).zip (List.range res.length)).filterMap fun e =>
    let r := e.1.2.1
    if ffin r.val || r.poison || r.mask then none else some (e.2, stageCause w r.val e.1.1.val e.1.2.2)

/-- Lanes that a double-bit error in a register read as an operand poison-tags (R185): PERMUTE by a value in lane 0 reads that lane
for all. -/
def lostLanes (c : Chip) (core : Nat) (w : Stg) (sel a : Nat) : List Nat :=
  if 32 ≤ sel then []
  else if w.kind = 10 && w.func % 2 = 1 then (if vrLost c core sel 0 then List.range a else [])
  else (List.range a).filter fun l => vrLost c core sel l

/-- Whether the last stage is CONVERT-OUT. -/
def VOp.hasOut (o : VOp) : Bool := (o.ws.getLast?.map fun w => w.kind == 12) == some true
/-- The stage the reduction taps (R162). -/
def VOp.tap (o : VOp) : Nat := o.ws.length - 1 - o.hasOut.toNat
/-- Cycles from a lane-vector's first stage input to its last output. -/
def VOp.depth (o : VOp) : Nat := (o.cum.getLast?.getD 0) + (o.lats.getLast?.getD 0)
/-- Op cycle τ(n) (R162). -/
def VOp.tau (o : VOp) (n : Nat) : Nat := 3 + n + o.cum.getD o.tap 0 + o.lats.getD o.tap 0
/-- Op cycles from a lane-vector's τ to its write in R. -/
def VOp.redWait (o : VOp) : Nat := if o.v.scope = 0 then 22 else 23
/-- Op cycle of the last event of the first `n` lane-vectors: writes of D, R and the registers. -/
def VOp.last (o : VOp) (n : Nat) : Nat :=
  if n = 0 then 1
  else max (3 + (n - 1) + o.depth) (if o.v.redOp = 0 then 0 else o.tau (n - 1) + o.redWait)

/-- Write a reduction result into tensor R (R162 to R164). -/
def writeR (o : VOp) (c : Chip) (r : RedRes) (e : Int) (n : Nat) : Chip :=
  match o.tr.use with
  | none => c
  | some f =>
    let p := c.takePath o.core 1
    if !p.1 then p.2
    else
      let x := redValue o.v.redOp o.v.argmax r
      let q := p.2.convHurt o.core 1 12 n o.seq [if r.poison then .bad else .val (decF32 x)]
      let out := q.1.vstoreRun o.core 1 o.tr f e q.2 (c.layerScale o.core o.tr.layer o.tr.layerEn)
      if r.v.isSome && r.clean && (!ffin x || !out.2.1.isEmpty) then out.1.vecCharge o.core o.t0 o.seq 5 12 n 0
      else if !out.2.2.isEmpty then out.1.vecFirst o.core o.t0 o.seq 5 12 n 0
      else out.1

/-- Stage `j` takes lane-vector `lv` in the present cycle. -/
def chainStage (o : VOp) (c : Chip) (lv : LvSt) (j : Nat) : Chip × LvSt :=
  let w := o.ws.getD j (Stg.ofBits 0)
  let a := o.v.active lv.n
  let b := if w.readsB o.ta.en then some (operand o c lv j w.selB a) else none
  let cc := if w.readsC then some (operand o c lv j w.selC a) else none
  let regs := (if w.readsB o.ta.en && w.selB < 32 then [w.selB] else []) ++ (if w.readsC && w.selC < 32 then [w.selC] else [])
  let lost := regs.flatMap fun q => lostLanes c o.core w q a
  let c := regs.foldl (fun c q => c.vrNote o.core q (if w.kind = 10 && w.func % 2 = 1 then 1 else a) j lv.n o.seq) c
  let reads := (b.getD []).zip (List.range a) ++ (cc.getD []).zip (List.range a)
  let p := chargeLanes o c lv j (reads.filterMap fun e => if e.1.cause = 0 || e.1.poison then none else some (e.2, e.1.cause))
  let xs := p.2.x
  let res : List (Opnd × List F32) :=
    if w.kind = 0 then
      (if o.ta.en then p.2.a else b.getD []).map fun x => ({ x with cause := 0 }, [x.val])
    else if w.kind = 10 then
      tabulate a fun d => match permSource w.func a d (b.getD []) with
        | some q => let x := xs.getD q { val := 0 }; (x, [x.val])
        | none => ({ val := 0 }, [])
    else if w.kind = 12 then xs.map fun x => (x, [x.val])
    else (xs.zip (List.range a)).map fun e =>
      laneStage w (o.v.i1 lv.n * o.v.vl0 + e.2) e.1 (b.bind fun l => l[e.2]?) (cc.bind fun l => l[e.2]?)
  let hurt := hurtLanes (c.stageErrors o.core j w.kind)
    (((res.map Prod.fst).zip (List.range a)).map fun e => if lost.contains e.2 then { e.1 with poison := true } else e.1)
  let res := hurt.1.zip (res.map Prod.snd)
  let bad := if w.kind = 10 then ((List.range a).filter fun d => (permSource w.func a d (b.getD [])).isNone) else []
  let p := match bad with
    | [] => p
    | d :: _ => if p.2.ranged then p else (p.1.permRange o.core o.t0 o.seq lv.n d, { p.2 with ranged := true })
  let early := if w.kind = 0 && o.ta.en then
      (lv.a.zip (List.range a)).filterMap fun e => if e.1.cause = 0 then none else some (e.2, e.1.cause) else []
  let p := chargeLanes o p.1 p.2 j (early ++ if w.kind = 12 || (w.kind = 0 && o.ta.en) then []
    else resultCharges w (if w.kind = 0 then res.map Prod.fst else xs) res)
  let out := hurt.1
  let c := p.1.vecFaults o.core j lv.n o.seq hurt.2
  let due := (c.core o.core).cycle + o.lats.getD j 0 - 1
  let c := if w.wen then c.setCore o.core fun k =>
      { k with vrPend := vrInsert { cycle := due, stage := j, reg := w.wreg,
                                    lanes := out.map fun x => { val := x.val, mask := x.mask, poison := x.poison } } k.vrPend }
    else c
  let ls := if w.kind = 12 then c.layerScale o.core o.td.layer o.td.layerEn else lv.ls
  (c, { p.2 with x := out, ls := ls })

/-- The lane-vector that enters in op cycle `k`: its reading of tensor A. -/
def chainEnter (o : VOp) (n : Nat) (c : Chip) : Chip × LvSt :=
  let lv (a : List Opnd) : LvSt := { n := n, a := a, b := [], x := [], charged := [], ranged := false, ls := 0 }
  let c := (c.lvRead o.core o.seq).atPart o.core n
  match o.ta.use with
  | none => (c, lv [])
  | some f =>
    let l := c.vread o.core o.ta f (eltOff o.v o.ta n) (o.v.active n)
    (l.2, lv l.1)

/-- Tensor B's reads of a stage for lane-vector `n`, five cycles ahead of the stage's input. -/
def chainSide (o : VOp) (c : Chip) (j : Nat) (w : Stg) (lv : LvSt) : Chip × LvSt :=
  let sels := (if w.readsB o.ta.en then [w.selB] else []) ++ (if w.readsC then [w.selC] else [])
  match o.tb.use with
  | none => (c, lv)
  | some f =>
    let c := c.atPart o.core lv.n
    ([48, 52].filter fun q => sels.contains q).foldl (fun (x : Chip × LvSt) q =>
      let l := x.1.vread o.core o.tb f (eltOff o.v o.tb lv.n) (if q = 48 then o.v.active lv.n else 1)
      (l.2, { x.2 with b := x.2.b ++ [(j, q, l.1)] })) (c, lv)

/-- Replace a lane-vector in flight. -/
def Chain.put (h : Chain) (lv : LvSt) : Chain := { h with fl := h.fl.map fun x => if x.n = lv.n then lv else x }

/-- One op cycle `k` of a chain (R160): reads, stages, then the writes of the cycle. -/
def chainCycle (c : Chip) (h : Chain) (k : Nat) : Chip × Chain :=
  let o := h.o
  let js := List.range o.ws.length
  let a : Chip × Chain := if k < 2 || h.n ≤ k - 2 then (c, h) else
    let r := chainEnter o (k - 2) c
    (r.1, { h with fl := h.fl ++ [r.2] })
  let a := (o.ws.zip js).foldl (fun (a : Chip × Chain) e =>
    match a.2.fl.find? fun lv => 3 + o.cum.getD e.2 0 + lv.n = k + 5 with
    | none => a
    | some lv =>
      let r := chainSide o a.1 e.2 e.1 lv
      (r.1, a.2.put r.2)) a
  let a := js.foldl (fun (a : Chip × Chain) j =>
    match a.2.fl.find? fun lv => 3 + lv.n + o.cum.getD j 0 = k with
    | none => a
    | some lv =>
      let r := chainStage o a.1 lv j
      let h := a.2.put r.2
      if o.v.redOp ≠ 0 && j = o.tap then
        let q := r.1.treeHurt o.core o.v.redOp 12 lv.n o.seq (redTree o.v.redOp (o.v.i1 lv.n * o.v.vl0) r.2.x)
        (q.1, { h with red := h.red ++ [(lv.n, q.2)] })
      else (r.1, h)) a
  let a : Chip × Chain := match a.2.fl.find? fun lv => 3 + lv.n + o.depth = k with
    | none => a
    | some lv =>
      let h := { a.2 with fl := a.2.fl.filter fun x => x.n != lv.n }
      match (if o.hasOut then o.td.use else none) with
      | none => (a.1, h)
      | some f =>
        let p := a.1.takePath o.core 0
        if !p.1 then (p.2, h)
        else
          let q := p.2.convHurt o.core 0 (o.ws.length - 1) lv.n o.seq
            (lv.x.map fun x => if x.poison then .bad else .val (decF32 x.val))
          let out := q.1.vstoreRun o.core 0 o.td f (eltOff o.v o.td lv.n) q.2 lv.ls
          ((chargeLanes o out.1 lv (o.ws.length - 1) (out.2.2.filterMap fun l =>
            if (lv.x.getD l { val := 0 }).mask then none else some (l, if out.2.1.contains l then 5 else 8))).1, h)
  if o.v.redOp = 0 then a
  else if o.v.scope = 0 then
    match a.2.red.find? fun r => o.tau r.1 + 22 = k with
    | none => a
    | some r => (writeR o a.1 r.2 (eltOff o.v o.tr r.1) r.1, { a.2 with red := a.2.red.filter fun x => x.1 != r.1 })
  else
    match a.2.red.find? fun r => o.v.i1 r.1 + 1 = o.v.vl1 && o.tau r.1 + 23 = k with
    | none => a
    | some r =>
      let row := r.1 / o.v.vl1
      let mine := a.2.red.filter fun x => x.1 / o.v.vl1 = row
      (writeR o a.1 (redJoin o.v.redOp (mine.map Prod.snd)) (rowOff o.v o.tr row) r.1,
        { a.2 with red := a.2.red.filter fun x => x.1 / o.v.vl1 != row })

/-- Whether a stage selects tensor B. -/
def VOp.needsB (o : VOp) : Bool := o.ws.any fun w =>
  (w.readsB o.ta.en && (w.selB == 48 || w.selB == 52)) || (w.readsC && (w.selC == 48 || w.selC == 52))

/-- Whether a chain keeps the rules of Table 05.24: stages, selectors, tensors. A reserved selector is an error where its stage reads it,
tensor B's selectors in stage 0 always (log entry 77, DESIGN CHOICE). -/
def chainOk (o : VOp) : Bool :=
  let js := List.range o.ws.length
  let stages := (o.ws.zip js).all fun e =>
    let rb := e.1.readsB o.ta.en
    let rc := e.1.readsC
    e.1.listed && ((e.2 == 0) == (e.1.kind == 0)) && (e.1.kind != 12 || e.2 + 1 == o.ws.length) &&
      (!rb || e.1.selB ≤ 52) && (!rc || e.1.selC ≤ 52) &&
      (e.2 != 0 || !((e.1.selB == 48 || e.1.selB == 52) || (e.1.selC == 48 || e.1.selC == 52)))
  stages && (!o.ta.en || o.ta.use.isSome) && (!o.needsB || o.tb.use.isSome) && (!o.hasOut || o.td.use.isSome) &&
    (o.v.redOp == 0 || (match o.tr.use with
      | some .fp32 => true
      | some .a40 => !o.v.argmax
      | some .bf16 => !o.v.argmax
      | _ => false))

namespace Chip

/-- Refuse an operation (Table 05.24): nothing read or written, the slot free from op cycle 2. -/
def vecRefuse (c : Chip) (core t0 : Nat) : Chip :=
  (c.schedErr core (R.vecEvents core) 3 6).setCore core fun k => { k with vecNext := t0 + 2 }

/-- An operation is under way: the next may issue in cycle `next`. -/
def vecBegin (c : Chip) (core next : Nat) (f : VFlight) : Chip :=
  c.setCore core fun k => { k with vecNext := next, vops := k.vops ++ [f] }

/-- CHAIN begins (R153 to R167). A reserved rounding mode is a schedule error of every tensor that the operation reads or writes,
whether or not its conversion rounds (log entry 58, DEDUCED). -/
def vecChain (c : Chip) (o : VOp) (loose : Bool) : Chip :=
  if !chainOk o then c.vecRefuse o.core o.t0
  else
    let c := c.markLoose o.core loose
    let used := [o.ta] ++ (if o.needsB then [o.tb] else []) ++ (if o.hasOut then [o.td] else []) ++ (if o.v.redOp = 0 then [] else [o.tr])
    let c := if used.any fun t => t.en && t.rnd.reserved then c.schedErr o.core (R.vecEvents o.core) 3 6 else c
    c.vecBegin o.core (o.t0 + 2 + o.v.n) (.chain { o := o, n := o.v.n, fl := [], red := [] })

end Chip
end Sys2Proof.Machine
end

