-- ==== Sys2Proof/Machine/Composites.lean ====
section
/-! DEFINITION. The composite operations of the vector engine: soft maximum, optimiser, spike watch, layer scale load (R168 to
R182), cycle by cycle, and the issue of a vector slot. -/

namespace Sys2Proof.Machine

namespace Comp
/-- Lane-vector `i1` of a row. -/
def lv (o : Comp) (row i1 : Nat) : Nat := i1 + o.v.vl1 * row
def mask (o : Comp) : Stg := Stg.ofBits (o.v.stageWord 0)
def masks (o : Comp) : Bool := o.v.stageWord 0 != 0
/-- β of R168, or the learning rate. -/
def beta (o : Comp) : F32 := o.v.p 0
/-- Whether the mask reads tensor B. -/
def maskB (o : Comp) : Bool := o.masks && (o.mask.selB == 48 || o.mask.selB == 52)
end Comp

/-- A positive, finite, normal FP32 value (R168). -/
def positiveNormal (x : F32) : Bool := 0x00800000 ≤ x.toNat && x.toNat < 0x7F800000

/-- First unmasked, unpoisoned position that satisfies a test: lane-vector and lane. -/
def firstPos (ps : List (List Pos)) (f : F32 → Bool) : Option (Nat × Nat) :=
  (ps.zip (List.range ps.length)).findSome? fun l =>
    ((l.1.zip (List.range l.1.length)).find? fun x => !x.1.masked && !x.1.poison && f x.1.t).map fun x => (l.2, x.2)

/-- Unmasked positions equal to +∞. -/
def countInf (ps : List (List Pos)) : Nat := ((ps.flatMap id).filter fun p => !p.masked && !p.poison && p.t == pinf32).length
def allMasked (ps : List (List Pos)) : Bool := ps.all fun l => l.all Pos.masked
/-- Whether an unmasked position is poisoned: every value reduced over the row is. -/
def rowPoison (ps : List (List Pos)) : Bool := ps.any fun l => l.any fun p => !p.masked && p.poison

/-- A reduction over a row's values, tree by lane-vector and combiner by i1 (R162); none are identities. -/
def rowReduce (red : Nat) (xs : List (List (Option F32))) : F32 :=
  redValue red false (redJoin red (xs.map fun l => redTree red 0 (l.map fun x => { val := x.getD 0, mask := x.isNone })))

/-- MAX over the unmasked positions. -/
def rowMax (ps : List (List Pos)) : F32 := rowReduce 2 (ps.map fun l => l.map fun p => if p.masked then none else some p.t)
/-- EXP2 (ADD (t, −m)), +0 at masked positions. -/
def rowExp (m : F32) (ps : List (List Pos)) : List (List F32) :=
  ps.map fun l => l.map fun p => if p.masked then 0 else f32Exp2 (f32Sub p.t m)
def rowSum (es : List (List F32)) : F32 := rowReduce 1 (es.map fun l => l.map some)

/-- Word `i` of a row's state record. -/
def RowFl.word (r : RowFl) (i : Nat) : Nat := leAt (plain r.record) (4 * i) 4
def RowFl.nanSet (r : RowFl) : Bool := bits (r.word 3) 0 1 == 1
def RowFl.infSet (r : RowFl) : Bool := bits (r.word 3) 1 1 == 1

/-- A lane-vector's outputs with their poison: every position where the row's reductions are poisoned. -/
def lvSrc (bad : Bool) (ps : List Pos) (f : Pos → F32) : List Src :=
  ps.map fun p => if bad || p.poison then .bad else .val (decF32 (f p))

namespace Chip

/-- Operand b of a composite's MASK word for a lane-vector. -/
def maskOperand (c : Chip) (o : Comp) (n i1 : Nat) : List Opnd × Chip :=
  let a := o.v.active n
  let s := o.mask.selB
  if s < 32 then (vrRead c o.core s a, c.vrNote o.core s a 14 n o.seq)
  else if s < 48 then (List.replicate a { val := o.v.p (s - 32) }, c)
  else if s = 48 || s = 52 then
    match o.tb.use with
    | none => (List.replicate a { val := 0 }, c)
    | some f =>
      let l := c.compRead o.core o.t0 o.seq o.tb f (eltOff o.v o.tb n) n (if s = 48 then a else 1)
      (if s = 48 then l.1 else List.replicate a (l.1.headD { val := 0 }), l.2)
  else if s = 49 then (tabulate a fun l => { val := f32OfNat (i1 * o.v.vl0 + l) }, c)
  else if s = 50 then (List.replicate a { val := 0 }, c)
  else (List.replicate a { val := one32 }, c)

/-- A composite's results of one pass over lane-vector `n` under the engine's faults (R183, R185): what the checks find is poisoned and
recorded. -/
def compHurt (c : Chip) (o : Comp) (pass n : Nat) (xs : List Opnd) : List Opnd × Chip :=
  let h := hurtLanes ((c.vecParts o.core).filterMap fun p => match p with
    | .vecComp q l chk err => if q = pass then some (l, chk, err) else none
    | _ => none) xs
  (h.1, c.vecFaults o.core 14 n o.seq h.2)

/-- A reduction of a row under the tree's faults: the value, and whether a check failed. -/
def rowHurt (c : Chip) (o : Comp) (red row : Nat) (x : F32) : Chip × F32 × Bool :=
  let r := c.treeHurt o.core red 14 (o.lv row (o.v.vl1 - 1)) o.seq { v := some (x, 0), poison := false, clean := false }
  (r.1, (r.2.v.getD (x, 0)).1, r.2.poison)

/-- Read lane-vector `i1` of a row of scores in one of its passes (R168). A position whose t is −∞ counts as masked (log entry 79, DESIGN
CHOICE). -/
def readPos (c : Chip) (o : Comp) (row i1 pass : Nat) : List Pos × Chip :=
  match o.ta.use with
  | none => ([], c)
  | some f =>
    let n := o.lv row i1
    let l := (c.atPart o.core n).compRead o.core o.t0 o.seq o.ta f (eltOff o.v o.ta n) n (o.v.active n)
    let m := if o.masks then l.2.maskOperand o n i1 else ([], l.2)
    let ts := m.2.compHurt o pass n (l.1.map fun x => { val := f32Mul x.val o.beta, poison := x.poison })
    ((ts.1.zip (List.range l.1.length)).map fun x =>
      let b := (m.1[x.2]?).getD { val := 0 }
      let hit := o.masks && maskHit o.mask.func (i1 * o.v.vl0 + x.2) b.val
      { t := x.1.val, masked := hit || (l.1.getD x.2 { val := 0 }).val == ninf32 || x.1.val == ninf32,
        poison := x.1.poison || (o.masks && b.poison) }, ts.2)

/-- A composite's charge (R167: stage 14). -/
def compCharge (c : Chip) (o : Comp) (cause row i1 lane : Nat) : Chip :=
  c.vecCharge o.core o.t0 o.seq cause 14 (o.lv row i1) lane

/-- EMPTY_ROW (R169, R172). -/
def emptyRow (c : Chip) (o : Comp) (online row : Nat) : Chip :=
  ((c.event (R.vecEvents o.core) 1).latch (R.vecEmptyRec o.core)
    (packF [(0, 1, 1), (1, 1, online), (2, 24, row), (26, 14, o.seq)])).setCore o.core fun k =>
      { k with empty := satAdd 32 k.empty 1 }

end Chip

/-! ### Writes to come -/

/-- A write of lane-vector `n`'s converted lanes to a tensor. -/
def outTo (cycle path n : Nat) (t : TRec) (e : Int) (vs : List Src) : List VOut :=
  match t.use with
  | none => []
  | some f => [{ cycle := cycle, path := path, n := n, data := .conv t f e vs, ls := 0 }]

/-- A write of FP32 words to a row's tensor R record at an element offset, poisoned where a word is none. -/
def outWords (o : Comp) (cycle row : Nat) (e : Int) (ws : List (Option Nat)) : List VOut :=
  [{ cycle := cycle, path := 1, n := o.lv row (o.v.vl1 - 1), ls := 0, data := .raw (eltAddr o.tr.addr e 32) (ws.flatMap fun w => match w with
      | some x => clean (toLE 4 x)
      | none => List.replicate 4 none) }]

namespace Chip

/-- The writes of a composite that fall in the present cycle; conversions that begin in it, four cycles ahead of their write,
take the layer scale in force (R161, R181); an element that overflows is recorded, and charges nothing (R77, R164). -/
def vecOuts (c : Chip) (o : Comp) (outs : List VOut) : Chip × List VOut :=
  let cyc := (c.core o.core).cycle
  let outs := outs.map fun w => if w.cycle = cyc + 4 then (match w.data with
      | .conv t _ _ _ => { w with ls := c.layerScale o.core t.layer t.layerEn }
      | _ => w) else w
  let c := (outs.filter fun w => w.cycle = cyc).foldl (fun c w =>
    let p := c.takePath o.core w.path
    if !p.1 then p.2
    else match w.data with
      | .conv t f e vs =>
        let q := p.2.convHurt o.core w.path 14 w.n o.seq vs
        let out := q.1.vstoreRun o.core w.path t f e q.2 w.ls
        out.2.2.foldl (fun c l => c.vecFirst o.core o.t0 o.seq 5 14 w.n l) out.1
      | .raw a bytes => p.2.nearWrite o.core (2 + 16 * w.path) a bytes) c
  (c, outs.filter fun w => w.cycle != cyc)

/-! ### Soft maximum (R168 to R173) -/

/-- A row's classification once its maximum is ready, with its charge or event (Table 05.13). -/
def softmaxClass (c : Chip) (o : Comp) (r : RowFl) : Chip × RowFl :=
  let r := { r with bad := r.bad || rowPoison r.ps, k := countInf r.ps }
  match firstPos r.ps fnan with
  | some p => (c.compCharge o 1 r.row p.1 p.2, { r with kind := .nan })
  | none => match firstPos r.ps (· == pinf32) with
    | some p => (c.compCharge o 4 r.row p.1 p.2, { r with kind := .inf })
    | none =>
      if allMasked r.ps then (c.emptyRow o 0 r.row, { r with kind := .empty })
      else
        let h := c.rowHurt o 2 r.row (rowMax r.ps)
        (h.1, { r with kind := .open, m := h.2.1, bad := r.bad || h.2.2 })

/-- Output y of a position (R168, R169): +0 at a masked position of every row, the "active" positions of Table 05.13 being those not
masked (log entry 59, DEDUCED). -/
def softmaxOut (r : RowFl) (p : Pos) : F32 :=
  match r.kind with
  | .nan => if p.masked then 0 else nanF32
  | .inf => if !p.masked && p.t == pinf32 then f32Recip (f32OfNat r.k) else 0
  | .empty => 0
  | .open => if p.masked then f32Mul 0 (f32Recip r.sum) else f32Mul (f32Exp2 (f32Sub p.t r.m)) (f32Recip r.sum)

/-- λ of a row (R168, Table 05.13). -/
def softmaxLam (r : RowFl) : F32 :=
  match r.kind with
  | .nan => nanF32
  | .inf => pinf32
  | .empty => ninf32
  | .open => f32Add r.m (f32Log2 r.sum)

/-- Cycle `x` of a row of SOFTMAX_ROW (Table 05.14) (log entry 23, DEDUCED). -/
def softmaxRow (c : Chip) (o : Comp) (r : RowFl) (x : Nat) : Chip × RowFl × List VOut :=
  let v := o.v.vl1
  if x < v then
    let l := (c.lvRead o.core o.seq).readPos o r.row x 1
    (l.2, { r with ps := r.ps ++ [l.1] }, [])
  else if x = v + 21 then
    let q := c.softmaxClass o r
    (q.1, q.2, [])
  else if v + 22 ≤ x && x < 2 * v + 22 then
    let l := c.readPos o r.row (x - v - 22) 2
    let r := { r with es := r.es ++ rowExp r.m [l.1], bad := r.bad || rowPoison [l.1] }
    if x ≠ 2 * v + 21 then (l.2, r, [])
    else
      let h := l.2.rowHurt o 1 r.row (rowSum r.es)
      let r := { r with sum := h.2.1, bad := r.bad || h.2.2 }
      (h.1, r, outWords o (r.s + 2 * v + 50 + o.e + o.lg) r.row (rowOff o.v o.tr r.row)
        [if r.bad then none else some (softmaxLam r).toNat])
  else if 2 * v + 48 ≤ x && x < 3 * v + 48 then
    let i := x - 2 * v - 48
    let l := c.readPos o r.row i 3
    (l.2, r, outTo (r.s + 2 * v + 62 + o.e + i) 0 (o.lv r.row i) o.td (eltOff o.v o.td (o.lv r.row i)) (lvSrc r.bad l.1 (softmaxOut r)))
  else (c, r, [])

/-- The case of a chunk, with its charge (Table 05.16). -/
def onlineClass (c : Chip) (o : Comp) (r : RowFl) : Chip × RowFl :=
  let r := { r with bad := rowPoison r.ps || dirty r.record, k := countInf r.ps }
  let nanAt := firstPos r.ps fnan
  if r.nanSet || nanAt.isSome then
    (match r.nanSet, nanAt with
      | false, some p => c.compCharge o 1 r.row p.1 p.2
      | _, _ => c, { r with kind := .nan })
  else if r.infSet || 1 ≤ r.k then
    (match firstPos r.ps (· == pinf32) with
      | some p => c.compCharge o 4 r.row p.1 p.2
      | none => c, { r with kind := .inf })
  else
    let h := c.rowHurt o 2 r.row (f32Max (BitVec.ofNat 32 (r.word 0)) (rowMax r.ps))
    (h.1, { r with kind := if h.2.1 == ninf32 then .empty else .open, m := h.2.1, bad := r.bad || h.2.2 })

/-- p of a position (Table 05.16). -/
def onlineOut (r : RowFl) (p : Pos) : F32 :=
  match r.kind with
  | .nan => nanF32
  | .inf => if !p.masked && p.t == pinf32 then one32 else 0
  | .empty => 0
  | .open => if p.masked then 0 else f32Exp2 (f32Sub p.t r.m)

/-- The record after a chunk (Table 05.16). -/
def onlineRecord (r : RowFl) : List Nat :=
  let flags := r.word 3
  match r.kind with
  | .nan => [nanF32.toNat, nanF32.toNat, nanF32.toNat, flags ||| 1]
  | .inf =>
    [pinf32.toNat, (if r.infSet then f32Add (BitVec.ofNat 32 (r.word 1)) (f32OfNat r.k) else f32OfNat r.k).toNat,
      if r.infSet then one32.toNat else 0, flags ||| 2]
  | .empty => [r.word 0, r.word 1, one32.toNat, flags]
  | .open =>
    let rho := f32Exp2 (f32Sub (BitVec.ofNat 32 (r.word 0)) r.m)
    [r.m.toNat, (f32Fma (BitVec.ofNat 32 (r.word 1)) rho r.sum).toNat, rho.toNat, flags]

/-- Read a row's state record (R171). -/
def readRecord (c : Chip) (o : Comp) (row : Nat) : List PByte × Chip :=
  let c := c.atPart o.core (o.lv row 0)
  let ra := eltAddr o.tr.addr (rowOff o.v o.tr row) 32
  (c.nearPeek o.core 6 ra 16, c.nearNote o.core 6 ra 16)

/-- Cycle `x` of a row of ONLINE_SOFTMAX (Tables 05.16, 05.18). -/
def onlineRow (c : Chip) (o : Comp) (r : RowFl) (x : Nat) : Chip × RowFl × List VOut :=
  let v := o.v.vl1
  let q := if x = 0 then c.readRecord o r.row else (r.record, c)
  let r := { r with record := q.1 }
  let c := q.2
  if x < v then
    let l := (c.lvRead o.core o.seq).readPos o r.row x 1
    (l.2, { r with ps := r.ps ++ [l.1] }, [])
  else if x = v + 21 then
    let q := c.onlineClass o r
    (q.1, q.2, [])
  else if v + 22 ≤ x && x < 2 * v + 22 then
    let i := x - v - 22
    let l := c.readPos o r.row i 2
    let r := { r with es := r.es ++ rowExp r.m [l.1], bad := r.bad || rowPoison [l.1] }
    let out := outTo (r.s + v + 33 + o.e + i) 0 (o.lv r.row i) o.td (eltOff o.v o.td (o.lv r.row i)) (lvSrc r.bad l.1 (onlineOut r))
    if x ≠ 2 * v + 21 then (l.2, r, out)
    else
      let h := l.2.rowHurt o 1 r.row (rowSum r.es)
      let r := { r with sum := h.2.1, bad := r.bad || h.2.2 }
      (h.1, r, out ++ outWords o (r.s + 2 * v + 51 + o.e) r.row (rowOff o.v o.tr r.row)
        ((onlineRecord r).map fun x => if r.bad then none else some x))
  else (c, r, [])

/-- Cycle `x` of a row of ONLINE_FINISH (Tables 05.17, 05.18). -/
def finishRow (c : Chip) (o : Comp) (r : RowFl) (x : Nat) : Chip × RowFl × List VOut :=
  let sum (r : RowFl) : F32 := BitVec.ofNat 32 (r.word 1)
  if x = 0 then
    let q := c.readRecord o r.row
    let r := { r with record := q.1, bad := dirty q.1 }
    let r := { r with m := BitVec.ofNat 32 (r.word 0), sum := sum r,
                      kind := if r.nanSet then .nan else if r.infSet then .inf else if fzero (sum r) then .empty else .open }
    let c := if r.kind = .empty then q.2.emptyRow o 1 r.row else q.2
    (c, r, outWords o (r.s + o.lg + 4) r.row (rowOff o.v o.tr r.row + 2) [if r.bad then none else some (softmaxLam r).toNat])
  else if 8 ≤ x && x < o.v.vl1 + 8 then
    let n := o.lv r.row (x - 8)
    let l := ((c.lvRead o.core o.seq).atPart o.core n).vread o.core o.ta .fp32 (eltOff o.v o.ta n) (o.v.active n)
    let h := l.2.compHurt o 1 n (l.1.map fun p => { p with val := match r.kind with
      | .nan => nanF32
      | .empty => 0
      | _ => f32Mul p.val (f32Recip r.sum) })
    (h.2, r, outTo (r.s + 8 + x) 0 n o.td (eltOff o.v o.td n) (h.1.map fun p =>
      if r.bad || p.poison then .bad else .val (decF32 p.val)))
  else (c, r, [])

end Chip

/-! ### The optimiser (R174 to R178) -/

/-- x ≤ y for FP32 values; false with a not-a-number. -/
def fle (x y : F32) : Bool := f32Rel 3 x y
/-- 2 ^ k as an FP32 value. -/
def fpow (k : Int) : F32 := encF32 (.fin false 1 k)

/-- The limit on |g|: 2 ^ gbound_exp, at most 2 ^ 56 (Table 05.19). -/
def Comp.gbound (o : Comp) : F32 := fpow (min (o.v.opt 11 6) 56)

/-- The learning rate as scaled by the table in force when the operation issues (Table 05.19; log entry 30, DEDUCED). -/
def lrEff (c : Chip) (core : Nat) (v : VDesc) : F32 :=
  encF32 ((decF32 (v.p 0)).scale (c.layerScale core (v.opt 0 10) (v.opt 10 1 == 1)))

/-- Two weights, both at least +0, whose exact sum is at most 1 (Table 05.20). -/
def weightsOk (a b : F32) : Bool :=
  ffin a && ffin b && fle 0 a && fle 0 b && cmpVal (addVal (decF32 a) (decF32 b)) (decF32 one32) != .gt

/-- Every scalar within Table 05.20. -/
def Comp.scalarsOk (o : Comp) : Bool :=
  ffin o.lr && fle 0 o.lr && fle o.lr one32 && weightsOk (o.v.p 1) (o.v.p 2) && weightsOk (o.v.p 3) (o.v.p 4) &&
    fle (fpow (-80)) (o.v.p 5) && fle (o.v.p 5) one32 && fle 0 (o.v.p 6) && fle (o.v.p 6) one32 &&
    fle one32 (o.v.p 7) && fle (o.v.p 7) (fpow 20) && fle one32 (o.v.p 8) && fle (o.v.p 8) (fpow 14)

/-- What an element of OPT_APPLY becomes. -/
inductive OptElt where
  | done (w m v : F32)
  | range (which : Nat)     -- first failing test, VEC_STATE_REC.which
  | fault (kind : Nat)      -- VEC_FAULT_REC.kind
  deriving DecidableEq, Repr

/-- The duplicate mismatch as the kind of a non-finite value that no check found (log entry 68, DESIGN CHOICE). -/
def optFaultKind : Nat := 2

/-- opt_element of R176. -/
def optElement (gb lr : F32) (p : Nat → F32) (g w m v : F32) : OptElt :=
  if !ffin g || !fle (f32Abs g) gb then .range 3
  else if !fle (f32Abs w) (fpow 124) then .range 0
  else if !fle (f32Abs m) (fpow 64) then .range 1
  else if !(fle 0 v && fle v (fpow 112)) then .range 2
  else
    let t1 := f32Mul (p 2) g
    let m1 := f32Fma (p 1) m t1
    let t2 := f32Mul g g
    let t3 := f32Mul (p 4) t2
    let v1 := f32Fma (p 3) v t3
    let mh := f32Mul m1 (p 7)
    let vh := f32Mul v1 (p 8)
    let d := f32Add vh (p 5)
    let q := f32Rsqrt d
    let u := f32Mul mh q
    let t4 := f32Fma (p 6) w u
    let w1 := f32Fma (f32Neg lr) t4 w
    if [t1, m1, t2, t3, v1, mh, vh, d, q, u, t4, w1].all ffin then .done w1 m1 v1 else .fault optFaultKind

/-- An element of OPT_APPLY in lane `l` under one of the engine's faults (R177, R184). -/
def optHurt (l : Nat) (x : OptElt) (p : Part) : OptElt :=
  match p, x with
  | .opt lane chk err, .done w m v =>
    if lane ≠ l then x else if chk.finds err then .fault chk.kind else .done (chk.alter err w) m v
  | _, _ => x

namespace Chip

/-- Read lane-vector `n` of OPT_CHECK: the largest gradient and whether a test fails (R175). -/
def optCheckRead (c : Chip) (f : CompFl) (n : Nat) : Chip × CompFl :=
  let o := f.o
  match o.ta.use with
  | none => (c, f)
  | some t =>
    let l := ((c.lvRead o.core o.seq).atPart o.core n).compRead o.core o.t0 o.seq o.ta t (eltOff o.v o.ta n) n (o.v.active n)
    let h := l.2.compHurt o 1 n l.1
    (h.2, h.1.foldl (fun f p => if p.poison then f else
      let g := f32Abs p.val
      { f with gmax := f32Max f.gmax g, fail := f.fail || fnan g || !fle g o.gbound }) f)

/-- VEC_GBOUND_STATUS takes the outcome of OPT_CHECK; one that PREEMPT stopped fails and is not counted (R175, R187). -/
def optCheckEnd (c : Chip) (f : CompFl) (stopped : Bool) : Chip :=
  let o := f.o
  let g := R.vecGbound o.core
  let bad := !o.scalarsOk
  let c := if stopped then c else c.addField g 0 16 1
  let c := c.setField g 32 32 (f32Max (BitVec.ofNat 32 (c.regField g 32 32)) f.gmax).toNat
  let c := if bad then c.setField g 17 1 1 else c
  if bad || f.fail || stopped then (c.setField g 16 1 1).lateEvent (c.basinOfCore o.core) else c

/-- Read and compute lane-vector `n` of OPT_APPLY: its writes to W, M, V and C (R176, R177). A failed check sets opt_fault, not vec_fault
(log entry 82, DEDUCED). -/
def optRead (c : Chip) (o : Comp) (n : Nat) : Chip × List VOut :=
  let a := o.v.active n
  let rd (c : Chip) (t : TRec) (f : Fmt) : List Opnd × Chip := c.compRead o.core o.t0 o.seq t f (eltOff o.v t n) n a
  let g := rd ((c.lvRead o.core o.seq).atPart o.core n) o.ta (o.ta.use.getD .fp32)
  let w := rd g.2 o.tb .fp32
  let m := rd w.2 o.td .fp32
  let v := rd m.2 o.tr .fp32
  let val (x : F32) : Src := .val (decF32 x)
  let r := foldN a (fun (acc : List Src × List Src × List Src × Chip) l =>
    let z : Opnd := { val := 0 }
    let gx := g.1.getD l z
    let wx := w.1.getD l z
    let mx := m.1.getD l z
    let vx := v.1.getD l z
    let put (w m v : Src) (c : Chip) : List Src × List Src × List Src × Chip :=
      (acc.1 ++ [w], acc.2.1 ++ [m], acc.2.2.1 ++ [v], c)
    let c := acc.2.2.2
    if gx.poison || wx.poison || mx.poison || vx.poison then put .bad .bad .bad c
    else
      match (c.vecParts o.core).foldl (optHurt l) (optElement o.gbound o.lr o.v.p gx.val wx.val mx.val vx.val) with
      | .done w1 m1 v1 => put (val w1) (val m1) (val v1) c
      | .range which =>
        put (val wx.val) (val mx.val) (val vx.val)
          ((c.event (R.vecEvents o.core) 5).latch (R.vecStateRec o.core)
            (packF [(0, 1, 1), (1, 2, which), (3, 9, l), (12, 36, n), (48, 14, o.seq)]))
      | .fault kind =>
        put .bad .bad .bad
          (((c.event (R.vecEvents o.core) 6).latch (R.vecFaultRec o.core)
            (packF [(0, 1, 1), (1, 2, kind), (3, 1, 1), (4, 4, 14), (8, 9, l), (17, 36, n), (53, 11, o.seq)])).hwFault 6
              (o.core / 2) (o.core % 2) 5)) ([], [], [], v.2)
  let cyc := o.t0 + 46 + n
  (r.2.2.2, outTo cyc 2 n o.tb (eltOff o.v o.tb n) r.1 ++ outTo cyc 2 n o.td (eltOff o.v o.td n) r.2.1 ++
    outTo cyc 2 n o.tr (eltOff o.v o.tr n) r.2.2.1 ++ outTo cyc 2 n o.tc (eltOff o.v o.tc n) r.1)

/-! ### Spike watch and layer scale table (R179 to R181) -/

/-- What SPIKE_FEED reads in op cycle 2: the loss, then the record. -/
def spikeRead (c : Chip) (o : Comp) : List PByte × Chip :=
  (c.nearPeek o.core 6 o.ta.addr 4 ++ c.nearPeek o.core 6 o.tr.addr 64,
    (c.nearNote o.core 6 o.ta.addr 4).nearNote o.core 6 o.tr.addr 64)

/-- SPIKE_FEED writes its candidate record and its status (R179, R180); the status takes a poisoned byte as zero (log entry 80, DESIGN
CHOICE). -/
def spikeFeed (c : Chip) (o : Comp) (buf : List PByte) : Chip :=
  let r := plain (buf.drop 4)
  let w (i : Nat) : F32 := BitVec.ofNat 32 (leAt r (4 * i) 4)
  let loss : F32 := BitVec.ofNat 32 (fromLE (plain (buf.take 4)))
  let ema := w 0
  let dev := w 1
  let alpha := w 2
  let warm := leAt r 24 4
  let valid := f32Rel 4 alpha 0 && fle alpha one32 && ffin (w 3) && fle 0 (w 3) && ffin (w 4) && fle 0 (w 4) &&
    ffin (w 5) && fle 0 (w 5) && ffin ema && ffin dev
  let delta := f32Sub loss ema
  let a := f32Abs delta
  let hi := f32Max (f32Mul (w 3) dev) (w 5)
  let lo := f32Max (f32Mul (w 4) dev) (w 5)
  let good := valid && ffin loss
  let band := good && warm == 0 && (f32Rel 4 delta hi || f32Rel 4 (f32Neg delta) lo)
  let h := c.compHurt o 1 0 [{ val := f32Fma alpha delta ema }]
  let c := if good then h.2 else c
  let next := h.1.headD { val := 0 }
  let cand : List Byte := if good then
      toLE 4 next.val.toNat ++ toLE 4 (f32Fma alpha (f32Sub a dev) dev).toNat ++ sliceB r 8 16 ++
        toLE 4 (warm - 1) ++ toLE 4 (satAdd 32 (leAt r 28 4) 1) ++ sliceB r 32 32
    else r
  let p := c.takePath o.core 0
  let c := if p.1 then p.2.nearWrite o.core 2 o.td.addr (if dirty buf || (good && next.poison) then List.replicate 64 none else clean cand) else p.2
  let g := R.vecSpike o.core
  let trip := !valid || !ffin loss || band
  let c := ((c.setField g 0 1 1).addField g 16 16 1).setField g 32 32 loss.toNat
  let c := if !valid then c.setField g 3 1 1 else if !ffin loss then c.setField g 2 1 1 else c
  let c := if band then c.setField g 4 1 1 else c
  let c := c.setCore o.core fun k => { k with feedCycle := some k.cycle }
  if trip then ((c.setField g 1 1 1).event (R.vecEvents o.core) 7).lateEvent (c.basinOfCore o.core) else c

/-- Half `h` of the table that LS_LOAD reads (R181). -/
def lsRead (c : Chip) (o : Comp) (h : Nat) : List PByte × Chip :=
  (c.nearPeek o.core 6 (o.ta.addr + 512 * h) 512, c.nearNote o.core 6 (o.ta.addr + 512 * h) 512)

/-! ### A composite, cycle by cycle -/

end Chip

/-- Period of a soft maximum row (Tables 05.14, 05.18). -/
def Comp.period (o : Comp) : Nat :=
  match o.v.op with
  | 1 => 3 * o.v.vl1 + 48
  | 2 => 2 * o.v.vl1 + 22
  | _ => o.v.vl1 + 8

/-- Op cycle of the last event of a composite that runs `n` rows or lane-vectors. -/
def Comp.last (o : Comp) (n : Nat) : Nat :=
  let v := o.v.vl1
  let rows (x : Nat) : Nat := if n = 0 then 1 else 2 + (n - 1) * o.period + x
  match o.v.op with
  | 1 => rows (max (3 * v + 61 + o.e) (2 * v + 50 + o.e + o.lg))
  | 2 => rows (2 * v + 51 + o.e)
  | 3 => rows (max (v + 15) (o.lg + 4))
  | 4 => if n < o.v.n then 2 + n else n + 27
  | 5 => if n = 0 then 1 else n + 45
  | 6 => 30
  | _ => 4

namespace Chip

/-- Row `r`'s work in op cycle `k` of a soft maximum operation. -/
def rowCycle (c : Chip) (o : Comp) (r : RowFl) : Chip × RowFl × List VOut :=
  let x := (c.core o.core).cycle - r.s
  match o.v.op with
  | 1 => c.softmaxRow o r x
  | 2 => c.onlineRow o r x
  | _ => c.finishRow o r x

/-- Rows of a soft maximum operation in op cycle `k`: one begins every period. -/
def rowsCycle (c : Chip) (f : CompFl) (k : Nat) : Chip × CompFl :=
  let o := f.o
  let fresh : List RowFl := if 2 ≤ k && (k - 2) % o.period = 0 && (k - 2) / o.period < f.n then
      [{ row := (k - 2) / o.period, s := o.t0 + k, record := [], ps := [], kind := .open, k := 0, m := 0, es := [], sum := 0,
         bad := false }]
    else []
  let a := (f.rows ++ fresh).foldl (fun (a : Chip × List RowFl × List VOut) r =>
    let q := a.1.rowCycle o r
    (q.1, a.2.1 ++ [q.2.1], a.2.2 ++ q.2.2)) (c, [], f.outs)
  (a.1, { f with rows := a.2.1.filter fun r => o.t0 + k + 1 < r.s + o.period, outs := a.2.2 })

/-- Op cycle `k` of a composite: its readings, then its writes. -/
def compCycle (c : Chip) (f : CompFl) (k : Nat) : Chip × CompFl :=
  let o := f.o
  let a : Chip × CompFl := match o.v.op with
    | 4 =>
      let a := if 2 ≤ k && k - 2 < f.n then c.optCheckRead f (k - 2) else (c, f)
      if f.n < o.v.n then (if k = 2 + f.n then (a.1.optCheckEnd a.2 true, a.2) else a)
      else if k = o.v.n + 27 then (a.1.optCheckEnd a.2 false, a.2) else a
    | 5 => if 2 ≤ k && k - 2 < f.n then
        let r := c.optRead o (k - 2)
        (r.1, { f with outs := f.outs ++ r.2 })
      else (c, f)
    | 6 => if k = 2 then
        let r := c.spikeRead o
        (r.2, { f with buf := r.1 })
      else if k = 30 then (c.spikeFeed o f.buf, f) else (c, f)
    | 7 => if k = 2 || k = 3 then
        let r := c.lsRead o (k - 2)
        (r.2, { f with buf := f.buf ++ r.1 })
      else (c, f)
    | _ => c.rowsCycle f k
  let w := a.1.vecOuts o a.2.outs
  (w.1, { a.2 with outs := w.2 })

/-- An operation's work in the core's present cycle. -/
def vecCycle (c : Chip) (core : Nat) (f : VFlight) : Chip × VFlight :=
  let cyc := (c.core core).cycle
  match f with
  | .chain h =>
    let r := chainCycle (c.acting core h.o.seq) h (cyc - h.o.t0)
    (r.1, .chain r.2)
  | .comp f =>
    let r := (c.acting core f.o.seq).compCycle f (cyc - f.o.t0)
    (r.1, .comp r.2)

/-- Every operation under way, the oldest first. -/
def vecCycles (c : Chip) (core : Nat) : Chip :=
  let r := (c.core core).vops.foldl (fun (a : Chip × List VFlight) f =>
    let x := a.1.vecCycle core f
    (x.1, a.2 ++ [x.2])) (c, [])
  r.1.setCore core fun k => { k with vops := r.2 }

end Chip

/-- A vector operation stops at its boundary (R187, Table 05.23): `cyc` is the cycle that PREEMPT reaches it in. -/
def stopVec (cyc : Nat) : VFlight → VFlight
  | .chain h =>
    let begun := min h.n (cyc - h.o.t0 - 1)
    .chain { h with n := min h.n (ceilDiv begun h.o.v.vl1 * h.o.v.vl1) }
  | .comp f =>
    let k := cyc - f.o.t0
    if f.o.v.op ≤ 3 then .comp { f with n := min f.n (if k < 2 then 0 else (k - 2) / f.o.period + 1) }
    else if f.o.v.op ≤ 5 then .comp { f with n := min f.n (ceilDiv (min f.n (k - 1)) 4096 * 4096) }
    else .comp f

/-- Op cycle 0 of an operation. -/
def VFlight.t0 : VFlight → Nat
  | .chain h => h.o.t0
  | .comp f => f.o.t0

/-- The last cycle of an operation. -/
def VFlight.last : VFlight → Nat
  | .chain h => h.o.t0 + h.o.last h.n
  | .comp f => f.o.t0 + f.o.last f.n

namespace Chip

/-- The end of a cycle: the table that LS_LOAD has read is in force from the next (R181); finished operations leave. -/
def vecEnd (c : Chip) (core : Nat) : Chip :=
  c.setCore core fun k =>
    { k with lsTable := k.vops.foldl (fun t f => match f with
        | .comp f => if f.o.v.op = 7 && k.cycle = f.o.t0 + 4 then (plain f.buf).map fun b => b.toNat else t
        | _ => t) k.lsTable,
             vops := k.vops.filter fun f => k.cycle < f.last }

/-! ### The vector slot (R148, R150, R161, R474) -/

/-- Whether the composite's descriptor keeps Table 05.24's first row. A compute copy of any format saturates, and OPT_CHECK holds the
records that are enabled to OPT_APPLY's formats (log entry 58, DEDUCED). -/
def compOk (o : Comp) : Bool :=
  let fp32 (t : TRec) : Bool := t.use == some .fp32
  let sel := o.mask.selB
  let copyOk := !o.tc.en || (o.tc.rnd.sat && (match o.tc.use with
    | some f => f.isLog || f == .bf16
    | none => false))
  let maskOk := !o.masks || (o.mask.kind == 11 && o.mask.func ≤ 3 && !o.mask.fill && sel ≤ 52 &&
    (!o.maskB || o.tb.use.isSome))
  match o.v.op with
  | 1 => o.ta.use.isSome && o.td.use.isSome && fp32 o.tr && positiveNormal o.beta && maskOk
  | 2 => o.ta.use.isSome && o.td.use.isSome && fp32 o.tr && positiveNormal o.beta && maskOk
  | 3 => fp32 o.ta && o.td.use.isSome && fp32 o.tr
  | 4 => o.ta.use.isSome && ([o.tb, o.td, o.tr].all fun t => !t.en || fp32 t) && copyOk
  | 5 => o.ta.use.isSome && fp32 o.tb && fp32 o.td && fp32 o.tr && o.scalarsOk && copyOk
  | 6 => fp32 o.ta && o.td.en && o.tr.en
  | 7 => o.ta.en
  | _ => false

/-- A composite issues; it keeps Table 05.24. -/
def composite (c : Chip) (o : Comp) (loose : Bool) : Chip :=
  if !compOk o then c.vecRefuse o.core o.t0
  else
    let c := c.markLoose o.core loose
    let recs := match o.v.op with
      | 4 => [o.ta]
      | 5 => [o.ta, o.tb, o.td, o.tr, o.tc]
      | 6 => [o.ta]
      | 7 => []
      | 3 => [o.ta, o.td, o.tr]
      | _ => [o.ta, o.td, o.tr] ++ if o.maskB then [o.tb] else []
    let c := if recs.any fun t => t.en && t.rnd.reserved then c.schedErr o.core (R.vecEvents o.core) 3 6 else c
    let rowed := o.v.op ≤ 3
    c.vecBegin o.core (o.t0 + 2 + if rowed then o.v.rows * o.period else o.v.n)
      (.comp { o := o, n := if rowed then o.v.rows else o.v.n, rows := [], outs := [], gmax := 0, fail := false, buf := [] })

/-- An operation begins once its descriptor is read (R148, R149, R474). -/
def vecStart (c : Chip) (core t0 : Nat) (loose : Bool) (v : VDesc) : Chip :=
  let st := R.vecOpStatus core
  let seq := (c.regField st 0 24 + 1) % 2 ^ 24
  let c := ((c.setField st 0 24 seq).setField st 24 4 v.op).setField st 32 32 0
  let c := c.put (R.vecLoop core) (packF [(0, 9, v.vl0 - 1), (9, 9, v.vt - 1), (18, 1, v.vtEn.toNat), (19, 12, v.vl1 - 1),
    (31, 12, v.vl2 - 1), (43, 12, v.vl3 - 1)])
  let contract := (c.basin (c.basinOfCore core)).contract
  let ta := v.tensor 0x10
  let tb := v.tensor 0x30
  let td := v.tensor 0x50
  let tr := v.tensor 0x70
  if 12 < v.stages then c.vecRefuse core t0
  else if v.op = 0 then
    let ws := tabulate v.stages fun j => Stg.ofBits (v.stageWord j)
    let lats := ws.map fun w => stageLat contract w.kind
    c.vecChain { core := core, t0 := t0, v := v, ws := ws, lats := lats, cum := tabulate v.stages fun j => sumN (lats.take j),
                 ta := ta, tb := tb, td := td, tr := tr, seq := seq } loose
  else c.composite { core := core, t0 := t0, seq := seq, v := v, ta := ta, tb := tb, td := td, tr := tr,
                     tc := v.tensor 0x90, e := stageLat contract 4, lg := stageLat contract 5, lr := lrEff c core v } loose

/-- An operation that begins in a core that PREEMPT has reached in its op cycle 0 stops before its first lane-vector or row, or runs to its
end (R187, Table 05.23). -/
def stopNew (c : Chip) (core t0 : Nat) : Chip :=
  if (c.core core).phase != .preempted then c
  else c.setCore core fun k => { k with vops := k.vops.map fun f => if f.t0 = t0 then stopVec (t0 + 1) f else f }

/-- The descriptor's second half is read in op cycle 1 (R160) (log entry 66, DESIGN CHOICE); an operation whose descriptor is poisoned
does nothing (R200). -/
def vecDescribe (c : Chip) (core : Nat) : Chip :=
  match (c.core core).vecDesc with
  | none => c
  | some d =>
    if (c.core core).cycle ≤ d.t0 then c
    else
      let l := d.first ++ c.nearPeek core 6 (c.nearBase core + 64 * (d.idx + 2)) 128
      let c := (c.descRead core 6 (d.idx + 2) 128).reportIf (dirty l) core 3 6 (c.nearBase core + 64 * d.idx)
      let c := c.setCore core fun k => { k with vecDesc := none }
      if dirty l then c.markLoose core d.loose else (c.vecStart core d.t0 d.loose { d := fromLE (plain l) }).stopNew core d.t0

/-- A vector slot of a bundle issues in cycle `cyc`: the descriptor's first half is read (R160, R161). -/
def vecIssue (c : Chip) (core idx : Nat) (loose : Bool) (cyc : Nat) : Chip :=
  if cyc < (c.core core).vecNext then c.schedErr core (R.vecEvents core) 3 6
  else
    let l := c.nearPeek core 6 (c.nearBase core + 64 * idx) 128
    (c.descRead core 6 idx 128).setCore core fun k =>
      { k with vecNext := cyc + 2, vecDesc := some { t0 := cyc, idx := idx, loose := loose, first := l } }

/-- VEC_OP_STATUS as it reads (Table 05.26). -/
def vecStatus (c : Chip) (core : Nat) : Word :=
  fset (c.reg (R.vecOpStatus core)) 28 1 (!(c.core core).vops.isEmpty).toNat

/-- VEC_LS_j as it reads (Table 05.38). -/
def lsStatus (c : Chip) (core j : Nat) : Word :=
  let t := (c.core core).lsTable
  packF (tabulate 8 fun i => (8 * i, 8, t.getD (8 * j + i) 0))

end Chip
end Sys2Proof.Machine
end

