-- ==== Sys2Proof/Machine/Units.lean ====
section
/-! DEFINITION. A cycle of a core: every unit's work in it, contested banks (R209), what stands at its end, the hazards that
audit mode looks for (R274), and the stop of the units under PREEMPT (R115, R144, R187, R227, R272). -/

namespace Sys2Proof.Machine

/-- Whether two byte ranges meet. -/
def meets (a n b m : Nat) : Bool := a < b + m && b < a + n

/-! ### Where operations under way will still read and write -/

/-- Where a berth's vector `j` commits: elements and scales (R97). -/
def outPlaces (p : Pass) (b : Berth) (j : Nat) : List (Nat × Nat) :=
  match b.yFmt with
  | none => []
  | some f => (b.al 112 48 + j * b.al 160 16, f.bytes p.cols) ::
      if f.isBlock then [(b.al 176 48 + j * (p.cols / 32), p.cols / 32)] else []

/-- A dense run of elements with its scales. -/
def runPlaces (addr saddr : Nat) (f : Fmt) (e n : Nat) : List (Nat × Nat) :=
  if n = 0 then [] else
  let sp := eltSpan f.width e n
  (addr + sp.1, sp.2) :: if f.isBlock then [(saddr + e / 32, (e + n - 1) / 32 - e / 32 + 1)] else []

/-- Output locations of a pass that commit after a cycle. -/
def PassFl.uncommitted (f : PassFl) (cyc : Nat) : List (Nat × Nat) :=
  ((List.range f.p.v).filter fun j => cyc < f.p.commitCycle j).flatMap fun j => f.bs.flatMap fun b => outPlaces f.p b j

/-- Tile rows, inputs and accumulate sources of a pass that are read after a cycle (R89, R117). -/
def PassFl.unread (f : PassFl) (cyc : Nat) : List (Nat × Nat) :=
  let p := f.p
  let pc := cyc - p.t
  let tiles := if p.bad then [] else ((List.range 128).filter fun r => pc < r).flatMap fun r =>
    (List.range p.berths).flatMap fun b => (List.range p.cols).flatMap fun n =>
      let at' := tilePlace p b n
      runPlaces at'.1 at'.2 p.wf (p.p * r) p.p
  let inputs := if p.bad then [] else ((List.range p.v).filter fun j => pc < 127 + j).flatMap fun j => f.bs.flatMap fun b =>
    let pl := inputPlace p b j
    runPlaces pl.1 pl.2.1 p.xf pl.2.2.1 pl.2.2.2
  let accs := ((List.range p.v).filter fun j => cyc < p.commitCycle j).flatMap fun j =>
    (f.bs.filter Berth.accEn).map fun b => (b.al 224 48 + j * b.al 272 16, 5 * p.cols)
  tiles ++ inputs ++ accs

/-- Output locations of a MATVEC that commit after a cycle (R133). -/
def MvuFl.uncommitted (f : MvuFl) (cyc : Nat) : List (Nat × Nat) :=
  match f.f with
  | none => []
  | some y => (List.range f.groups).flatMap fun g => ((List.range f.m.slots.length).filter fun r => cyc < f.starts.getD g 0 + r).flatMap fun r =>
      (f.m.al 48 48 + r * f.m.al 96 32 + g * 16 * y.width, 16 * y.width) ::
        if y.isBlock then [(f.m.al 128 48 + r * (4 * f.m.groups) + 4 * g, 4)] else []

/-- Where a run written to a tensor lies: elements, whole blocks in a block format, and scales (R151). -/
def tensorPlaces (t : TRec) (e : Int) (n : Nat) : List (Nat × Nat) :=
  match t.use with
  | none => []
  | some f => (eltAddr t.addr e f.width, f.bytes (if f.isBlock then (n + 31) / 32 * 32 else n)) ::
      if f.isBlock then [(eltAddr t.saddr (e / 32) 8, (n + 31) / 32)] else []

/-- A write still to come: the lane-vector it belongs to, its cycle and its places. -/
abbrev Later := Nat × Nat × List (Nat × Nat)

/-- A chain's writes. -/
def Chain.writes (h : Chain) : List Later :=
  let o := h.o
  (List.range h.n).flatMap fun n =>
    (if o.hasOut then [(n, o.t0 + 3 + n + o.depth, tensorPlaces o.td (eltOff o.v o.td n) (o.v.active n))] else []) ++
    if o.v.redOp = 0 then []
    else if o.v.scope = 0 then [(n, o.t0 + o.tau n + 22, tensorPlaces o.tr (eltOff o.v o.tr n) 1)]
    else if o.v.i1 n + 1 = o.v.vl1 then [(n, o.t0 + o.tau n + 23, tensorPlaces o.tr (rowOff o.v o.tr (n / o.v.vl1)) 1)]
    else []

/-- A composite's writes. -/
def CompFl.writes (f : CompFl) : List Later :=
  let o := f.o
  let v := o.v.vl1
  let rows (d : Nat → Nat) (r : Nat) (rec' : Int → List (Nat × Nat)) : List Later :=
    (List.range f.n).flatMap fun row =>
      let s := o.t0 + 2 + row * o.period
      (o.lv row (v - 1), s + r, rec' (rowOff o.v o.tr row)) :: tabulate v fun i =>
        (o.lv row i, s + d i, tensorPlaces o.td (eltOff o.v o.td (o.lv row i)) (o.v.active (o.lv row i)))
  match o.v.op with
  | 1 => rows (2 * v + 62 + o.e + ·) (2 * v + 50 + o.e + o.lg) fun e => [(eltAddr o.tr.addr e 32, 4)]
  | 2 => rows (v + 33 + o.e + ·) (2 * v + 51 + o.e) fun e => [(eltAddr o.tr.addr e 32, 16)]
  | 3 => rows (16 + ·) (o.lg + 4) fun e => [(eltAddr o.tr.addr (e + 2) 32, 4)]
  | 5 => tabulate f.n fun n => (n, o.t0 + 46 + n, [o.tb, o.td, o.tr, o.tc].flatMap fun t =>
      tensorPlaces t (eltOff o.v t n) (o.v.active n))
  | 6 => [(0, o.t0 + 30, [(o.td.addr, 64)])]
  | _ => []

/-- The writes of an operation of the vector engine that come after a cycle. -/
def VFlight.uncommitted (f : VFlight) (cyc : Nat) : List Later :=
  (match f with
    | .chain h => h.writes
    | .comp f => f.writes).filter fun w => cyc < w.2.1

def VFlight.seq : VFlight → Nat
  | .chain h => h.o.seq
  | .comp f => f.o.seq

/-- Last near-end cycle of a stream's row (Table 06.9). -/
def Stream.nearEnd (s : Stream) (issue j : Nat) : Nat := s.q issue j + if s.out then s.c - 1 else 0

namespace Chip

/-! ### Audit (R274, Table 07.13) -/

/-- Slot that the unit of an access issued from (Table 07.18): of a stream engine the slot of the stream under way. -/
def slotOf (k : Core) (x : Access) : Nat :=
  let e := x.agent / 16
  let stream := 7 + (((k.engines[e]?).bind Engine.fl).map StrFl.slot).getD e
  match x.agent % 16 with
  | 0 => 1 + e
  | 1 => 5
  | 2 => 6
  | 3 => stream
  | 4 => 1 + e
  | 5 => 5
  | 6 => 6
  | 8 => stream
  | 9 => 11
  | _ => 12

/-- Hazards of a cycle: of its scratch accesses, and two stages writing one register in it (R160); code and slot, by code. A lane-vector of the vector engine may read what it or a later
lane-vector of its own operation will write; a MATVEC reads its slots from its first slice to its last intake (log entry 31,
DEDUCED). -/
def accessHazards (c : Chip) (core : Nat) : List (Nat × Nat) :=
  let k := c.core core
  let cyc := k.cycle
  let log := k.now.log.map fun x => { x with addr := x.addr + c.nearBase core - scratchBase core }
  let hit (x : Access) (l : List (Nat × Nat)) : Bool := l.any fun w => meets x.addr x.n w.1 w.2
  let reads (l : List (Nat × Nat)) : List Nat := (log.filter fun x => !x.write && hit x l).map (slotOf k)
  let h1 := k.passes.flatMap fun f => reads (f.uncommitted cyc)
  let h2 := k.passes.flatMap fun f =>
    let l := f.unread cyc
    (log.filter fun x => x.write && hit x l).map (slotOf k)
  let h3 := k.mvus.flatMap fun f => reads (f.uncommitted cyc)
  let h4 : List Nat := match k.ldv with
    | some l => if l.t0 < cyc && k.mvus.any (fun f => !f.build && f.m.slots.contains l.slot && decide (f.t0 + 2 ≤ cyc) &&
        decide (cyc ≤ f.t0 + f.m.lastIntake (f.groups - 1))) then [5] else []
    | none => []
  let h6 := k.vops.flatMap fun f =>
    let l := f.uncommitted cyc
    let seen (x : Access) : List (Nat × Nat) :=
      (if x.agent % 16 = 6 && x.op = f.seq then l.filter fun w => w.1 < x.part else l).flatMap fun w => w.2.2
    (log.filter fun x => !x.write && hit x (seen x)).map (slotOf k)
  let h9 := (k.engines.zip (List.range 4)).flatMap fun g => match g.1.fl with
    | none => []
    | some f =>
      let l := ((List.range f.s.rows).filter fun j => cyc ≤ f.s.nearEnd g.1.issue j).map fun j => (f.s.nearOf j, f.s.bytes)
      let own (x : Access) : Bool := (x.agent % 16 = 3 || x.agent % 16 = 8) && x.agent / 16 = g.2
      (log.filter fun x => !own x && hit x l).map (slotOf k)
  let h10 : List Nat := if (k.vrPend.filter fun w => w.cycle = cyc).Pairwise (fun x y => x.reg ≠ y.reg) then [] else [6]
  let one (code : Nat) (l : List Nat) : List (Nat × Nat) := l.map fun s => (code, s)
  one 1 h1 ++ one 2 h2 ++ one 3 h3 ++ one 4 h4 ++ one 6 h6 ++ one 9 h9 ++ one 10 h10

/-- Look for the hazards of a cycle (log entry 43, DESIGN CHOICE). -/
def auditCycle (c : Chip) (core : Nat) : Chip :=
  if c.audited (c.basinOfCore core) then (c.accessHazards core).foldl (fun c h => c.auditTrap core h.1 h.2) c else c

/-! ### Contested banks (R209) -/

/-- Banks and agents of a cycle's accesses. -/
def bankUses (log : List Access) : List (Nat × Nat) :=
  log.flatMap fun x => tabulate ((x.addr + x.n - 1) / 128 - x.addr / 128 + 1) fun i =>
    ((x.addr / 128 + i) % 64, agentRank x.agent)

/-- Banks that more than one agent addresses: the bank, its winner, and the first of the losers. -/
def contests (log : List Access) : List (Nat × Nat × Nat) :=
  let uses := (bankUses log).eraseDups
  ((List.range 64).filterMap fun b =>
    match ((uses.filter fun u => u.1 = b).map Prod.snd).mergeSort (· ≤ ·) with
    | w :: l :: _ => some (b, w, l)
    | _ => none)

/-- The first conflict is recorded (Table 06.20) (log entry 40, DEDUCED). -/
def noteContest (c : Chip) (core : Nat) (l : List (Nat × Nat × Nat)) : Chip :=
  match l with
  | [] => c
  | x :: _ => ((c.event (R.strEvents core) 2).latch (R.strConflictRec core)
      (packF [(0, 1, 1), (1, 6, x.1), (7, 4, x.2.1 / 8), (11, 4, x.2.2 / 8), (15, 49, (c.core core).cycle)])).auditTrap core 8 12

/-! ### A cycle -/

/-- Every unit's work in the core's present cycle. -/
def cycleBody (c : Chip) (core : Nat) : Chip :=
  let c := ((c.vrSettle core).acting core 0).landNow core
  let c := (List.range 4).foldl (fun c e => c.nearCycle core e) c
  let c := (c.core core).passes.foldl (fun c f => c.passCycle core f) c
  let c := (c.core core).mvus.foldl (fun c f => c.mvuCycle core f) c
  let c := (((c.acting core 0).ldvCycle core).vecDescribe core).vecCycles core
  (c.acting core 0).scanCycle core

/-- Run a cycle's work; where agents contest a bank, again with the winners served (R209). -/
def contested : Nat → Chip → Nat → (Chip → Chip) → Chip
  | 0, c, core, f => f (c.cycleBody core)
  | fuel + 1, c, core, f =>
    let r := f (c.cycleBody core)
    let wins := (c.core core).now.wins
    let new := (contests (r.core core).now.log).filter fun x => !wins.contains (x.1, x.2.1)
    if new.isEmpty then r
    else contested fuel (c.setNow core fun w => { w with wins := wins ++ new.map fun x => (x.1, x.2.1) }) core f

/-- Work whose last cycle is the present one is over. -/
def retire (c : Chip) (core : Nat) : Chip :=
  c.setCore core fun k =>
    { k with passes := k.passes.filter fun f => k.cycle < f.last,
             mvus := k.mvus.filter fun f => k.cycle < f.last,
             ldv := k.ldv.filter fun _ => k.cycle < k.ldvTo.getD 0,
             engines := k.engines.map (fun g => if k.cycle < g.busyTo.getD 0 then g else { g with fl := none }),
             now := Now.start }

/-- What stands at the end of a cycle: writes, verdicts, tables, hazards. -/
def cycleEnd (c : Chip) (core : Nat) : Chip :=
  let c := (c.landWrites core).auditCycle core
  let c := (c.core core).passes.foldl (fun c f => c.passVerdict core f) c
  let c := (c.core core).mvus.foldl (fun c f => c.mvuVerdicts core f) c
  (c.vecEnd core).retire core

/-! ### PREEMPT (R115, R144, R187, R227, R272) -/

/-- A MATVEC or BUILD stops after the row groups begun. -/
def stopMvu (cyc : Nat) (f : MvuFl) : MvuFl :=
  { f with groups := ((List.range f.groups).filter fun g => f.t0 + f.m.header g ≤ cyc).length }

/-- A core's units stop at their boundaries; passes, streams, scans and a LOAD_VEC run on, and an operation whose descriptor is still
read stops as it begins (log entry 14, DEDUCED). -/
def stopCore (c : Chip) (core : Nat) : Chip :=
  c.setCore core fun k =>
    let mvus := k.mvus.map (stopMvu k.cycle)
    let intake := mvus.foldl (fun m f => max m (if f.groups = 0 then f.t0 else f.t0 + f.m.lastIntake (f.groups - 1))) 0
    let held (t : Nat) : Nat := if k.mvus.isEmpty then t else min t (intake + if k.mvuKind = 2 then 2064 else 0)
    { k with phase := if k.phase = .run then .preempted else k.phase, hold := none, waitLeft := 0, queue := [], fetchAhead := 0,
             fetchEnd := true, mvus := mvus,
             mvuLastIntake := if k.mvus.isEmpty then k.mvuLastIntake else k.mvuLastIntake.map (min intake),
             engines := k.engines.map (fun g => { g with heldTo := g.heldTo.map held }),
             vops := (k.vops.map (stopVec k.cycle)).filter fun f => k.cycle < f.last }

/-- A basin that is being pre-empted: every core that no ebb holds stops, and a barrier's hold is over (R272). -/
def stopBasin (c : Chip) (b : Nat) : Chip :=
  if !(c.basin b).preempting || !(c.basin b).live then c
  else
    let c := (c.coresOf b).foldl (fun c i => if (c.core i).ebb.isNone then c.stopCore i else c) c
    if (c.coresOf b).any fun i => (c.core i).hold.isSome then c else c.setField (R.tidBarrier b) 6 1 0

/-- The end of a tick: a basin that a hazard has trapped in it stops, unless its gate was open (R272, R274). -/
def stopTrapped (c : Chip) : Chip :=
  c.basinsIn.foldl (fun c b =>
    let x := c.basin b
    if x.trapped && x.live && !x.preempting && c.regField (R.seqGate b) 7 1 = 0 then
      (c.setBasin b fun x => { x with preempting := true }).stopBasin b
    else c) c

/-- The core's present cycle, `f` issuing in it. -/
def thisCycle (c : Chip) (core : Nat) (f : Chip → Chip) : Chip :=
  let r := contested 8 (c.setNow core fun _ => Now.start) core f
  (r.noteContest core (contests (r.core core).now.log)).cycleEnd core

/-- A core enters its next cycle, `f` issuing in it. -/
def oneCycle (c : Chip) (core : Nat) (f : Chip → Chip) : Chip :=
  let c := (((List.range 4).foldl (fun c e => c.farEdge core e) c).feedEdge core).scanOver core
  (c.setCore core fun k => { k with cycle := k.cycle + 1, waitLeft := k.waitLeft - 1, half := false }).thisCycle core f

/-! ### Occupation -/

/-- Whether nothing of a core is in flight. -/
def quiet (c : Chip) (core : Nat) : Bool :=
  let k := c.core core
  k.passes.isEmpty && k.mvus.isEmpty && k.ldv.isNone && k.vecDesc.isNone && k.vops.isEmpty && k.scan.isNone && k.lands.isEmpty &&
    k.engines.all fun g => g.fl.isNone

/-- The last cycle in which a unit of a core works (R248). -/
def lastCycle (c : Chip) (core : Nat) : Nat :=
  let k := c.core core
  let l := k.passes.map PassFl.last ++ k.mvus.map MvuFl.last ++ (k.ldv.map fun _ => k.ldvTo.getD 0).toList ++
    (k.vecDesc.map fun d => d.t0 + 1).toList ++ k.vops.map VFlight.last ++ (k.scan.map Scan.last).toList ++ k.lands.map Land.cycle ++
    (k.engines.filter fun g => g.fl.isSome).map fun g => g.busyTo.getD 0
  l.foldl max k.cycle

/-- A core enters `m` cycles in which nothing issues. -/
def runOn : Nat → Chip → Nat → Chip
  | 0, c, _ => c
  | m + 1, c, core =>
    if c.quiet core then c.setCore core fun k =>
      { k with cycle := k.cycle + (m + 1), waitLeft := k.waitLeft - (m + 1), half := false }
    else runOn m (c.oneCycle core id) core

end Chip
end Sys2Proof.Machine
end

