-- ==== Sys2Proof/Machine/Clock.lean ====
section
/-! DEFINITION. Time: the edges a span of ticks produces (R235) and delivers (R236), what a delivered edge counts (R238, R239,
R257 to R261), and the passing of ticks. -/

namespace Sys2Proof.Machine

/-- Edges per frame of an operating point (Table 07.1). -/
def edgesPerFrame (op : Nat) : Nat := [10, 9, 8, 6].getD op 6

/-- Edges in the first `t` ticks of frames of `e` edges: edge k falls in tick floor(10k / e) (R235). -/
def edgesUpTo (e t : Nat) : Nat := t / 10 * e + ceilDiv (t % 10 * e) 10

/-- Edges produced in `n` ticks from frame position `p`. -/
def edgesIn (e p n : Nat) : Nat := edgesUpTo e (p + n) - edgesUpTo e p

/-- Whether edge `i` of a group is delivered at throttle level `n` (R236). -/
def delivers (n i : Nat) : Bool := decide (i * n / 64 < (i + 1) * n / 64)

/-- Edges delivered of `k` produced edges from edge `g` of a group at level `n`. -/
def deliveredIn (n g k : Nat) : Nat := (g + k) * n / 64 - g * n / 64

/-- Add to a saturating 64-bit counter register. -/
def count64 (c : Chip) (a n : Nat) : Chip := if n = 0 then c else c.addField a 0 64 n

/-- Edges of `n` in which a cause is still pending. -/
def Pend.edges (p : Pend) (n : Nat) : Nat :=
  match p.left with
  | some l => min n l
  | none => n

/-- `n` edges delivered to a sett's controller: windows close and the spans since them grow (R202). -/
def Win.edges (n : Nat) (w : Win) : Win := { w with left := w.left - n, since := w.since + n }

/-- The cycle that a failed block's adjudication keeps the core from entering (R93, R105). -/
def Adj.bound (a : Adj) : Nat := a.passStart + min (64 * a.block + 63) (a.vectors - 1) + 313

/-- Whether every cause of an ebb has an end that is known. -/
def Ebb.known (e : Ebb) : Bool := e.pend.all fun p => p.left.isSome

/-- Edges an ebb still holds: the longest pending cause. -/
def Ebb.left (e : Ebb) : Nat := (e.pend.map fun p => p.left.getD 0).foldl max 0

namespace Chip

def op (c : Chip) : Nat := c.regField R.tidThrottle 0 2
def level (c : Chip) : Nat := c.regField R.tidThrottle 8 7

/-- The core that counts a pending cause: its raiser; for REMOTE_EBB, which no core raised, the basin's lowest held core. -/
def raiser (c : Chip) (b : Nat) (p : Pend) : Nat :=
  if p.core = 0x3F then ((c.coresOf b).find? fun j => (c.core j).ebb.isSome).getD (c.firstCore b) else p.core

/-- The core of a basin whose copy of a basin-wide ebb stands for it. -/
def ebbLeader (c : Chip) (b i : Nat) : Bool :=
  (c.basin b).scope = 0 || (c.coresOf b).find? (fun j => (c.core j).ebb.isSome) == some i

/-- Cycles that a core may still enter of itself: a running one up to the issue of its next bundle, one that has ended or was
pre-empted up to its units' last cycle (R248, R272); none in FAULTED (R368). -/
def cyclesLeft (c : Chip) (i : Nat) : Nat :=
  let k := c.core i
  if c.dev = .faulted then 0 else
  match k.phase with
  | .run => k.waitLeft
  | .idle => 0
  | _ => c.lastCycle i - k.cycle

/-- Whether a core runs its schedule, in the sense of R238: until it has ended or its units have stopped. -/
def inSchedule (c : Chip) (i : Nat) : Bool :=
  match (c.core i).phase with
  | .run => true
  | .preempted => c.cyclesLeft i ≠ 0 || !(c.core i).adj.isEmpty
  | _ => false

/-- `n` edges of a core in an ebb (R238, R258, R261); past its last pending edge it waits for EBB_PASS. -/
def ebbEdges (c : Chip) (i n : Nat) (e : Ebb) : Chip :=
  let b := c.basinOfCore i
  let n := if e.known then min n e.left else n
  let own := if c.inSchedule i then n else 0
  let c := count64 c (R.tidEbbEdges i) own
  let c := e.pend.foldl (fun c p =>
    if c.raiser b p = i then
      let c := c.addField (R.tidEbbCause i p.cause) 32 32 (p.edges n)
      if p.cause = 1 then c.addField (R.strLateCount i) 32 32 (p.edges n) else c
    else c) c
  let lead := c.ebbLeader b i
  let c := c.setAcc b fun a =>
    { a with ebbEdges := satAdd 64 a.ebbEdges own,
             ebbs := if lead then (a.ebbs.zip (List.range a.ebbs.length)).map fun x =>
                 (x.1.1, satAdd 32 x.1.2 (((e.pend.filter fun p => p.cause = x.2 + 1).map fun p => p.edges n).foldl max 0))
               else a.ebbs }
  (c.adjEdges (n + 1) i n).setCore i fun k =>
    { k with ebb := some { e with held := e.held + n,
                                  pend := e.pend.map fun p => { p with left := p.left.map (· - n) } } }

/-- `n` edges of a core in a hold. -/
def holdEdges (c : Chip) (i n : Nat) (h : Hold) : Chip :=
  let c := (count64 c (R.tidHoldEdges i) n).setAcc (c.basinOfCore i) fun a => { a with holdEdges := satAdd 64 a.holdEdges n }
  c.setCore i fun k => { k with hold := some { h with edges := h.edges + n } }

/-- The edges that `m` cycles of a core still take: twice as many in audit mode, less an audit edge already past (R238,
R273). -/
def edgesFor (c : Chip) (i m : Nat) : Nat :=
  if m = 0 then 0 else if c.audited (c.basinOfCore i) then 2 * m - (c.core i).half.toNat else m

/-- The cores an ebb cause raised in core `i` holds (R256, R260). -/
def ebbScope (c : Chip) (i cause : Nat) : List Nat :=
  let b := c.basinOfCore i
  if (c.basin b).scope = 0 && cause ≠ 6 then [i]
  else (c.coresOf b).filter fun j => j = i || (c.core j).phase == .run || (c.core j).ebb.isSome || c.cyclesLeft j ≠ 0

/-- Failed blocks of the scope whose adjudication belongs to a boundary not after the one before cycle `d`. -/
def adjDue (c : Chip) (i d : Nat) : Bool :=
  (c.ebbScope i 3).any fun j => (c.core j).adj.any fun a => decide (a.bound ≤ d)

/-- A core enters up to `m` cycles, none past a boundary at which a failed block is adjudicated; `fuel` bounds the boundaries. -/
def runCycles : Nat → Chip → Nat → Nat → Chip
  | 0, c, _, _ => c
  | fuel + 1, c, i, m =>
    if m = 0 || c.adjDue i ((c.core i).cycle + 1) then c
    else if (c.core i).adj.isEmpty && (c.core i).passes.isEmpty then c.runOn m i
    else runCycles fuel (c.runOn 1 i) i (m - 1)

/-- Whether a core has far-end traffic still to start. -/
def farIdle (c : Chip) (i : Nat) : Bool :=
  let k := c.core i
  c.dev == .faulted || (k.engines.all fun g => (g.fl.map fun f => (f.s.out || f.s.rows ≤ f.requested) && f.waits.isEmpty) != some false) &&
    k.mvus.isEmpty && (k.scan.map Scan.own) != some false

/-- Far ends run in the edges that are no cycles, MVU feeds and far scans among them (R216). -/
def farEdges : Nat → Chip → Nat → Chip
  | 0, c, _ => c
  | n + 1, c, i =>
    if c.farIdle i then c
    else farEdges n ((((List.range 4).foldl (fun c e => c.farEdge i e) c).feedEdge i).scanEdge i) i

/-- `n` edges delivered to a core that neither ebbs nor holds; the edge in which a bundle is due is BUNDLE's, and a core whose
bundle does not come stands there. In audit mode the first edge of a pair is an audit edge (R238, R273). -/
def runEdges (c : Chip) (i n : Nat) : Chip :=
  let half := (c.core i).half.toNat
  let audit := c.audited (c.basinOfCore i)
  let m := min (c.cyclesLeft i) (if audit then (n + half) / 2 else n)
  let c' := runCycles (m + 1) c i m
  if !audit then c'
  else
    let went := (c'.core i).cycle - (c.core i).cycle
    let rest := n + half - 2 * went
    let c' := farEdges (min 1 rest) c' i
    c'.setCore i fun k => { k with half := decide (1 ≤ rest) && (k.phase == .run || c'.cyclesLeft i ≠ 0) }

/-- `n` edges delivered to a core (R238): those it has taken ahead are behind it. -/
def coreEdges (c : Chip) (n i : Nat) : Chip :=
  let k := c.core i
  let x := n - min n k.ahead
  let c := c.setCore i fun k => { k with ahead := k.ahead - min n k.ahead }
  if x = 0 then c
  else
    let c := count64 c (R.tidEdges i) x
    let b := c.basin (c.basinOfCore i)
    let c := if k.phase = .run || (b.running && !b.live) then fetchEdges x c i else c
    match k.ebb, k.hold with
    | some e, _ => farEdges x (c.ebbEdges i x e) i
    | none, some h => if k.phase = .run then farEdges x (c.holdEdges i x h) i else c.runEdges i x
    | none, none => c.runEdges i x

/-- Delivered and withheld edges reach every unit that counts them (R236, R238, R239; Table 07.20, Table 07.21). -/
def edges (c : Chip) (produced delivered : Nat) : Chip :=
  let withheld := produced - delivered
  let c := if withheld = 0 then c else c.addField R.tidThrottle 16 48 withheld
  let c := if withheld = 0 then c else c.basinsIn.foldl (fun c b =>
    if (c.basin b).running then (c.timing b 1).addField (R.tidBasinTiming b) 32 32 withheld else c) c
  let c := (List.range 36).foldl (fun c d => count64 c (R.tidLocalEdges d) delivered) c
  let c := [36, 37, 38, 39].foldl (fun c d => count64 c (R.tidLocalEdges d) produced) c
  let c := prefetchEdges delivered ((List.range 40).foldl (fun c i => c.coreEdges delivered i) c)
  let c := if delivered = 0 then c else (List.range 20).foldl serveWrites c
  { c with wins := c.wins.map (Win.edges delivered) }

/-- A pending throttle level and operating point take effect at a group boundary (R236, R237); every basin in a step
records the level, every basin in RUN the change of point. -/
def groupBoundary (c : Chip) : Chip :=
  let c := match c.clk.level with
    | some n => (c.setField R.tidThrottle 8 7 n).overList c.basinsIn fun c b =>
        if c.undecided b then c.setAcc b fun a => { a with minLevel := min a.minLevel n } else c
    | none => c
  let c := match c.clk.op with
    | some o => (if o = c.op then c else c.overList c.basinsIn fun c b =>
        if (c.basin b).running then c.timing b 2 else c).setField R.tidThrottle 0 2 o
    | none => c
  { c with clk := { c.clk with level := none, op := none } }

/-- Holds at an opened gate end once the opening is in force (R356). -/
def passGates (c : Chip) : Chip :=
  c.basinsIn.foldl (fun c b => match (c.basin b).openAt with
    | some t =>
      if c.tide < t then c
      else
        let c := (c.coresOf b).foldl (fun c i => c.setCore i fun k => match k.hold with
          | some { kind := .gate, .. } => { k with hold := none }
          | _ => k) c
        c.setBasin b fun x => { x with openAt := none }
    | none => c) c

/-- `n` ticks in which neither the level, the operating point nor a gate changes. -/
def passSpan (c : Chip) (n : Nat) : Chip :=
  let produced := edgesIn (edgesPerFrame c.op) c.clk.framePos n
  let delivered := if c.clk.stopped then 0 else deliveredIn c.level c.clk.group produced
  let g := c.clk.group + produced
  let c := (c.edges produced delivered).stopTrapped
  let c := if 64 ≤ g && (c.clk.level.isSome || c.clk.op.isSome) then c.groupBoundary else c
  let c := { c with tide := (c.tide + n) % 2 ^ 64,
                    clk := { c.clk with framePos := (c.clk.framePos + n) % 10, group := g % 64 },
                    quay := { c.quay with silence := c.quay.silence + n },
                    pilot := { c.pilot with sinceGood := c.pilot.sinceGood + n } }
  c.passGates

/-- Ticks to the next change inside `n`: one at a time while a level or operating point waits, where a core has work in flight, and
in audit mode; else to the next gate. -/
def nextSpan (c : Chip) (n : Nat) : Nat :=
  if c.clk.level.isSome || c.clk.op.isSome then 1
  else if c.basinsIn.any fun b => (c.basin b).live && c.audited b then 1
  else if !c.fab.prefetch.isEmpty || (c.wins.any fun w => !w.writes.isEmpty) || (c.dev != .faulted && (List.range 40).any fun i => !c.quiet i) then 1
  else c.basinsIn.foldl (fun m b => match (c.basin b).openAt with
    | some t => if c.tide < t then min m (t - c.tide) else m
    | none => m) n

/-- Pass `n` ticks, cut at the changes within them; `fuel` bounds the cuts. -/
def passAux : Nat → Chip → Nat → Chip
  | 0, c, _ => c
  | fuel + 1, c, n =>
    if n = 0 then c
    else
      let m := max 1 (min n (c.nextSpan n))
      passAux fuel (c.passSpan m) (n - m)

/-- The least number of ticks that deliver `k` edges, at the present level and operating point (R235, R236). -/
def ticksFor (c : Chip) (k : Nat) : Nat :=
  let g := c.clk.group
  let n := c.level
  let e := edgesPerFrame c.op
  let produced := ceilDiv ((g * n / 64 + k) * 64) (max n 1) - g
  if k = 0 then 0 else 10 * (edgesUpTo e c.clk.framePos + produced - 1) / e + 1 - c.clk.framePos

/-- Whether the tide count runs: from READY on (R230). -/
def tideRuns (c : Chip) : Bool := c.dev != .off && c.dev != .boot && c.pilot.stage == .ready

/-- Let `n` ticks pass. Before READY the count holds zero and no unit counts; without power nothing happens. -/
def pass (c : Chip) (n : Nat) : Chip :=
  if c.dev = .off then c
  else if c.tideRuns then passAux n c n
  else { c with pilot := { c.pilot with sinceGood := c.pilot.sinceGood + n } }

/-- Let time pass until the tide count reaches a tick. -/
def passTo (c : Chip) (t : Nat) : Chip := c.pass (t - c.tide)

/-- Edges delivered in the next `n` ticks at the present level and operating point. -/
def edgesWithin (c : Chip) (n : Nat) : Nat :=
  deliveredIn c.level c.clk.group (edgesIn (edgesPerFrame c.op) c.clk.framePos n)

/-- Pass to the tick that carries the `k`-th edge delivered from now on; `fuel` bounds the ticks passed one by one while a level
or an operating point waits for the group boundary. -/
def passEdges : Nat → Chip → Nat → Chip
  | 0, c, _ => c
  | fuel + 1, c, k =>
    if k = 0 || c.clk.stopped || !c.tideRuns then c
    else if c.clk.level.isNone && c.clk.op.isNone then c.pass (c.ticksFor k - 1)
    else if k = 1 && c.edgesWithin 1 = 1 then c
    else passEdges fuel (c.pass 1) (k - c.edgesWithin 1)

/-- Let time pass until `k` edges have been delivered. -/
def passWhole (c : Chip) (k : Nat) : Chip := if k = 0 || c.clk.stopped then c else (passEdges 1000 c k).pass 1

/-- A core takes the next edge before the tick that delivers it has passed. -/
def takeEdge (c : Chip) (i : Nat) : Chip := (count64 c (R.tidEdges i) 1).setCore i fun k => { k with ahead := k.ahead + 1 }

end Chip

/-- A step with no command waiting: one tick passes (log entry 10, DESIGN CHOICE). -/
def idleTick (s : State) : Host.Outcome State Fault Refusal := s.upd fun c => c.pass 1

end Sys2Proof.Machine
end

