-- ==== Sys2Proof/Machine/Links.lean ====
section
/-! DEFINITION. Tidelink ports: topology and routes (R301 to R311), the link layer (R312 to R315), rotation and failure (R304
to R307), floods (R341), slot copies (R317 to R320). -/

namespace Sys2Proof.Machine

/-- Ports of a direction code, ascending (Table 09.1). -/
def portsOfDir (d : Nat) : List Nat := (List.range 32).filter fun p => (portPlace p).1 = d

/-- The harbour die that carries a port. -/
def portDie (p : Nat) : Nat := 20 + p / 2

/-- Direction codes that act as one direction of a dimension (Table 09.3). -/
def gang (kind dim : Nat) (plus : Bool) : List Nat :=
  let s := if plus then 1 else 0
  match kind, dim with
  | 1, 0 => [s, 2 + s, 4 + s]
  | 2, 0 => [s, 4 + s]
  | 2, 1 => [2 + s]
  | 3, d => [2 * d + s]
  | _, _ => []

/-- The way round a ring: none at the place itself, else whether it goes + (R309). -/
def way (size own dst : Nat) : Option Bool :=
  if own = dst then none else some (decide ((dst + size - own) % size ≤ (own + size - dst) % size))

/-- Virtual channel class of a message: 0 sideband, 1 control, 3 data, 5 slot (Table 09.4). -/
def vcClass (kind : Nat) : Nat :=
  if kind ≤ 3 then 3 else if kind = 4 then 1 else if kind ≤ 8 then 0 else 5

/-! ### Flits and message headers (Tables 09.4, 09.5) -/

/-- A flit: its header, its payload filled with zeros, and CRC-64 over both (R312). -/
def sealFlit (hdr : Word) (payload : List Byte) : List Byte :=
  let l := toLE 8 hdr.toNat ++ (payload ++ List.replicate 240 0).take 240
  l ++ toLE 8 (crc64 l)

/-- A flit that carries no message: IDLE, NAK or PORTCTL. -/
def ctlFlit (type pseq ack cvc ccount : Nat) (payload : List Byte) : List Byte :=
  sealFlit (packF [(0, 4, type), (9, 12, pseq), (21, 12, ack), (33, 3, cvc), (36, 5, ccount)]) payload

/-- An IDLE flit: an acknowledgement, and credits of a channel. -/
def idleBytes (ack cvc n : Nat) : List Byte := ctlFlit 0 0 ack cvc n []

/-- The 16-byte message header. -/
def msgHead (m : LinkMsg) : List Byte :=
  toLE 8 (packF [(0, 4, m.kind), (4, 4, m.sx), (8, 4, m.sy), (12, 4, m.sz), (16, 2, m.sbasin), (18, 4, m.sharb),
    (32, 32, m.cargo.length + m.payload.length)]).toNat ++ toLE 8 m.body

/-- The flits of a message from flit `n` on, its first numbered `pseq`; each acknowledges `ack` and returns no credits. -/
def msgFlits (m : LinkMsg) (vc pseq n ack : Nat) : List (List Byte) :=
  let ps := chunks 240 (msgHead m ++ m.cargo ++ m.payload)
  let type := if vc = 0 then 3 else if vc = 5 then 4 else 1
  (ps.zipIdx.drop n).map fun x =>
    sealFlit (packF [(0, 4, type), (4, 3, vc), (7, 1, if x.2 = 0 then 1 else 0), (8, 1, if x.2 + 1 = ps.length then 1 else 0),
      (9, 12, pseq + x.2), (21, 12, ack), (41, 4, m.dx), (45, 4, m.dy), (49, 4, m.dz), (53, 2, m.dbasin), (55, 4, m.dharb)]) x.1

/-- Flits of a message (R316). -/
def flitsOf (m : LinkMsg) : Nat := ceilDiv (16 + m.cargo.length + m.payload.length) 240

namespace Chip

def topo (c : Chip) : Word := c.reg (R.lnkTopo 20)
def topoKind (c : Chip) : Nat := fget c.topo 0 2
def dim (c : Chip) (k : Nat) : Nat := fget c.topo (2 + 4 * k) 4 + 1
/-- Own coordinate in a dimension. -/
def here (c : Chip) (k : Nat) : Nat := fget c.topo (14 + 4 * k) 4
def serviceRole (c : Chip) : Nat := fget c.topo 26 2
def slotMode (c : Chip) : Bool := fbit c.topo 28

/-- Whether a message is addressed to this package's coordinates. -/
def forHere (c : Chip) (m : LinkMsg) : Bool := m.dx == c.here 0 && m.dy == c.here 1 && m.dz == c.here 2

def dirRotating (c : Chip) (d : Nat) : Bool := d < 6 && c.regField (R.lnkDir 20 d) 5 1 == 1
/-- Rotation port's member of the current period (R304). -/
def rotMember (c : Chip) : Nat := c.tide / 10000000 % 5
/-- A member of a rotating direction that takes no new message: the rotation port before it joins, and the next one in the
last 20,000 ticks of a period (R304, R305; Table 09.2). -/
def draining (c : Chip) (p : Nat) : Bool :=
  let x := portPlace p
  let late := decide (9980000 ≤ c.tide % 10000000)
  c.dirRotating x.1 && (if late then x.2 == (c.rotMember + 1) % 5 else x.2 == c.rotMember)

def portUp (c : Chip) (p : Nat) : Bool := c.regField (R.lnkPort p) 0 1 == 1
def portRole (c : Chip) (p : Nat) : Nat := c.regField (R.lnkPort p) 1 2
/-- A member that takes new messages. -/
def portActive (c : Chip) (p : Nat) : Bool := c.portUp p && c.portRole p == 0 && !c.draining p

/-- The virtual channel of a message leaving in a dimension: the second of its class once it has crossed that ring's dateline
(R309). -/
def vcOf (c : Chip) (m : LinkMsg) (k : Nat) (plus : Bool) : Nat :=
  let cls := vcClass m.kind
  let src := match k with
    | 0 => m.sx
    | 1 => m.sy
    | _ => m.sz
  let crossed := if plus then c.here k < src else src < c.here k
  if (cls = 1 || cls = 3) && crossed then cls + 1 else cls

/-- The first flit of a held message that is not acknowledged, counted from its first. -/
def resumeAt (c : Chip) (p : Nat) (h : Held) : Nat :=
  let d := ((c.port p).acked + 4096 - h.pseq) % 4096
  if d < h.flits then d else 0

/-- A held message as it goes out: a PORTCTL flit, or its flits from the oldest unacknowledged one on (R313). -/
def emit (c : Chip) (p : Nat) (h : Held) : Chip :=
  let ack := (c.port p).expect
  if h.m.kind = 0 then c.out (.flit p 5 (ctlFlit 5 h.pseq ack 0 0 [BitVec.ofNat 8 h.m.body]))
  else
    let n := c.resumeAt p h
    let arr : FlitIn := { pseq := (h.pseq + n) % 4096, vc := h.vc, bad := none, ack := ack, cvc := 0, ccount := 0 }
    c.out (.link p { h.m with port := 0, arr := arr } (msgFlits h.m h.vc h.pseq n ack))

/-- Return the credits of `n` flits that have left a port's receive buffer: up to 31 in an IDLE flit (R315), once the port carries
flits (R305). -/
def giveCredits (c : Chip) (p vc n : Nat) : Chip :=
  if (c.port p).calibrating then c.setPort p fun x => { x with owed := x.owed ++ [(vc, n)] }
  else foldN (if vc < 5 then ceilDiv n 31 else 1) (fun c i =>
    c.out (.flit p 0 (idleBytes (c.port p).expect vc (if vc < 5 then min 31 (n - 31 * i) else 0)))) c

/-- A port's calibration is over: what it owes is returned. -/
def endCalibration (c : Chip) (p : Nat) : Chip :=
  let l := (c.port p).owed
  l.foldl (fun c x => c.giveCredits p x.1 x.2) (c.setPort p fun x => { x with calibrating := false, owed := [] })

/-- The mark, in place of its ingress port, of a message that has left that port's receive buffer. -/
def portLeft : Nat := 0x3E

/-- Put a message's flits on a port (R313); one that came in on another port has left its receive buffer with that, once. -/
def startMsg (c : Chip) (p : Nat) (h : Held) : Chip :=
  let h := { h with pseq := (c.port p).pseq }
  let kept : Held := { h with m := { h.m with port := if h.m.port < 32 then portLeft else h.m.port } }
  let c := (c.setPort p fun x =>
    { x with pseq := (x.pseq + h.flits) % 4096, replay := x.replay ++ [kept], since := if x.replay.isEmpty then c.tide else x.since,
             credits := if h.vc < 5 then modifyAt x.credits h.vc (· - h.flits) else x.credits }).emit p h
  if h.m.port < 32 then c.giveCredits h.m.port h.m.arr.vc h.flits else c

/-- Whether `n` more flits may be in a port's replay buffer of 512: of a longer message the rest follow as the first are acknowledged
(R313) (log entry 35, DEDUCED). -/
def replayRoom (c : Chip) (p n : Nat) : Bool :=
  let used := sumN ((c.port p).replay.map Held.flits)
  used = 0 || used + n ≤ 512

/-- Whether a port in traffic may start a message: credits for all its flits, replay space; in slot mode PORTCTL flits alone, and slot
traffic in its slots alone (R313, R315, R317, R318). -/
def mayStart (c : Chip) (p vc n : Nat) : Bool :=
  let x := c.port p
  !c.fab.down && c.portUp p && c.portRole p == 0 &&
    (vc == 6 || (!c.slotMode && decide (vc < 5) && decide (n ≤ x.credits.getD vc 0))) && c.replayRoom p n

/-- A message to send: its flits, channel, and the copy queue it serves. -/
def toHeld (vc job : Nat) (m : LinkMsg) : Held := { pseq := 0, flits := flitsOf m, vc := vc, job := job, m := m }

/-- Send on a port, or hold the message until the port may start it. -/
def linkSend (c : Chip) (p : Nat) (h : Held) : Chip :=
  if c.mayStart p h.vc h.flits && !((c.port p).waiting.any fun x => x.vc = h.vc) then c.startMsg p h
  else c.setPort p fun x => { x with waiting := x.waiting ++ [h] }

/-- Start the held messages of a port that may start now: PORTCTL, then sideband before control before data. -/
def drainWaiting (c : Chip) (p : Nat) : Chip :=
  let l := (c.port p).waiting
  let sorted := [6, 0, 1, 2, 3, 4, 5].flatMap fun v => l.filter fun h => h.vc = v
  let c := c.setPort p fun x => { x with waiting := [] }
  sorted.foldl (fun c h => c.linkSend p h) c

/-- Send on the next active member of pooled directions in round-robin order (R310), sideband on the first, so that it keeps to one
path (R341); with none active, hold it (R307). -/
def sendDir (c : Chip) (dirs : List Nat) (h : Held) : Chip :=
  let d := dirs.headD 6
  let ports := (List.range 32).filter fun p => dirs.contains (portPlace p).1
  let act := ports.filter c.portActive
  let at' := if h.vc = 0 then 0 else c.fab.rr.getD d 0
  let next (p : Nat) : Chip := if h.vc = 0 then c else { c with fab := { c.fab with rr := modifyAt c.fab.rr d fun _ => p + 1 } }
  match act.find? fun p => at' ≤ p, act, ports with
  | some p, _, _ => (next p).linkSend p h
  | none, p :: _, _ => (next p).linkSend p h
  | none, [], p :: _ => c.setPort p fun x => { x with waiting := x.waiting ++ [h] }
  | none, [], [] => c

/-- Directions and channel a message leaves by; none when it is for this package (R309, R311). -/
def routeOf (c : Chip) (m : LinkMsg) : Option (List Nat × Nat) :=
  if c.serviceRole = 2 then some ([6], vcClass m.kind)
  else match way (c.dim 0) (c.here 0) m.dx, way (c.dim 1) (c.here 1) m.dy, way (c.dim 2) (c.here 2) m.dz with
    | some w, _, _ => some (gang c.topoKind 0 w, c.vcOf m 0 w)
    | none, some w, _ => some (gang c.topoKind 1 w, c.vcOf m 1 w)
    | none, none, some w => some (gang c.topoKind 2 w, c.vcOf m 2 w)
    | none, none, none => if c.serviceRole = 1 then some ([6], vcClass m.kind) else none

/-- Send a message of this package on its way; one for this package itself comes back as its own row with port 0x3F. -/
def post (c : Chip) (m : LinkMsg) : Chip :=
  let m := { m with port := 0x3F }
  match c.routeOf m with
  | some r => c.sendDir r.1 (toHeld r.2 0 m)
  | none => c.out (.link 0x3F m [])

/-- Whether a message's flits all pass: right CRC-64s, and the next expected pseq (R313). A message of this package itself has no
flits. -/
def inOrder (c : Chip) (p : Nat) (a : FlitIn) : Bool := 32 ≤ p || (a.bad.isNone && a.pseq == (c.port p).expect)

/-- A message of `n` flits accepted on a port: the next expected pseq. Its credits are returned with the acknowledgement where it stays
here (R313, R315). -/
def accepted (c : Chip) (p n vc : Nat) (stays : Bool) : Chip :=
  if 32 ≤ p then c
  else
    let c := c.setPort p fun x => { x with expect := (x.expect + n - x.part) % 4096, part := 0, nakSent := false }
    if stays then c.giveCredits p vc n else c.out (.flit p 0 (idleBytes (c.port p).expect 0 0))

/-- Flits discarded (R313): those before a wrong CRC-64 are accepted, the failure is counted, and the first discard since the last
accepted flit sends a NAK with the expected pseq. -/
def discarded (c : Chip) (p : Nat) (a : FlitIn) : Chip :=
  let c := if a.bad.isSome then c.addField (R.lnkPortCnt p) 32 32 1 else c
  let q := if a.pseq = (c.port p).expect then a.bad.getD 0 else 0
  let c := c.setPort p fun x => { x with expect := (x.expect + q) % 4096, part := x.part + q, nakSent := x.nakSent && q == 0 }
  if (c.port p).nakSent then c else (c.setPort p fun x => { x with nakSent := true }).out (.flit p 2 (ctlFlit 2 0 (c.port p).expect 0 0 []))

/-- Send the unacknowledged flits again, of those that may go outside a slot: one retry (R313, R317). -/
def restart (c : Chip) (p : Nat) : Chip :=
  let c := (c.event (R.lnkEvents (portDie p)) 0).addField (R.lnkPortCnt p) 0 32 1
  let c := c.setPort p fun x => { x with retries := x.retries + 1, since := c.tide }
  ((c.port p).replay.filter fun h => h.vc = 6 || !c.slotMode).foldl (fun c h => c.emit p h) c

/-- Whether an acknowledgement covers a held message. -/
def covers (ack : Nat) (h : Held) : Bool :=
  let d := (ack + 4096 - h.pseq) % 4096
  h.flits ≤ d && d ≤ 1024

/-- The copy queue of a harbour die. -/
def copyQueue (c : Chip) (h : Nat) : List CopyJob := c.fab.copies.getD (h - 20) []

/-- Copies at the head of a die's queue with nothing left to send or to acknowledge are done (R319). -/
def popCopies : Nat → Chip → Nat → Chip
  | 0, c, _ => c
  | n + 1, c, h => match c.copyQueue h with
    | j :: _ =>
      if j.len = 0 && !((List.range 32).any fun p => ((c.port p).replay ++ (c.port p).waiting).any fun x => x.job = h) then
        popCopies n ({ c with fab := { c.fab with copies := modifyAt c.fab.copies (h - 20) List.tail } }.setField (R.lnkCopyStatus h) 5 1 1) h
      else c
    | [] => c

/-- Lines of a COPY message: its payload is the destination, then 144 bytes a line (log entry 64, DESIGN CHOICE). -/
def copyLinesOf (m : LinkMsg) : Nat := (m.payload.length - 8) / 144

/-- An acknowledged COPY message: its lines are ordered (R319). -/
def copyAcked (c : Chip) (h : Held) : Chip :=
  if h.m.kind ≠ 9 then c else popCopies 16 (c.addField (R.lnkCopyStatus h.job) 6 58 (copyLinesOf h.m)) h.job

/-! ### Rotation and failure (R304 to R307) -/

def setRole (c : Chip) (p role : Nat) : Chip := c.setField (R.lnkPort p) 1 2 role

/-- Ports of a direction that work: up, and not failed. -/
def working (c : Chip) (d : Nat) : List Nat := (portsOfDir d).filter fun p => c.portUp p && c.portRole p != 2

/-- The directions that a message held on a port of direction `d` may take in its place: slot traffic and PORTCTL flits travel one
hop (R306, R318). -/
def sameWay (c : Chip) (d : Nat) (h : Held) : List Nat :=
  match (if 5 ≤ h.vc then none else c.routeOf h.m) with
  | some r => if r.1.contains d then r.1 else [d]
  | none => [d]

/-- Send again on other members what a port held (R306, R310). -/
def rehome (c : Chip) (p : Nat) : Chip :=
  let x := c.port p
  let d := (portPlace p).1
  let c := c.setPort p fun x => { x with replay := [], waiting := [] }
  (x.replay ++ x.waiting).foldl (fun c h => c.sendDir (c.sameWay d h) h) c

/-- A port leaves traffic for good: the rotation port takes its place, the direction stops rotating, degraded and down are
recorded on every die that carries the direction (R306, R307). -/
def failPort (c : Chip) (p : Nat) : Chip :=
  let d := (portPlace p).1
  let c := c.setRole p 2
  let rot := c.dirRotating d
  let c := if rot then
      let r := (portsOfDir d).filter fun q => c.portRole q = 1 && c.portUp q
      let c := r.foldl (fun c q => ((c.setRole q 0).setField (R.lnkPort q) 9 1 1).endCalibration q) c
      c.setField (R.lnkDir 20 d) 5 1 0
    else c
  let bad := ((portsOfDir d).filter fun q => c.portRole q = 2).length
  let h := portDie p
  let report (c : Chip) : Chip := c.tell 0x15 h 0x11 (c.basinOfHarbour h) (c.reg (R.lnkEvents h))
  let c := if d < 6 && bad = 2 then report (c.event (R.lnkEvents h) 2) else c
  let c := if (c.working d).isEmpty then report ((c.event (R.lnkEvents h) 3).setField (R.lnkDir 20 d) 9 1 1) else c
  let c := if rot then c.tell 0x15 h 0x11 (c.basinOfHarbour h) (c.reg (R.lnkDir 20 d)) else c
  c.rehome p

/-- LNK_DIR_d as it reads (Table 09.17). -/
def dirStatus (c : Chip) (d : Nat) : Word :=
  let ps := portsOfDir d
  let failed := sumN (ps.map fun p => if c.portRole p = 2 then 2 ^ (portPlace p).2 else 0)
  let r := c.reg (R.lnkDir 20 d)
  packF [(0, 5, failed), (5, 1, fget r 5 1), (6, 3, if d < 6 then c.rotMember else 0), (9, 1, fget r 9 1),
    (10, 3, (ps.filter fun p => c.portUp p && c.portRole p == 0).length)]

/-! ### Floods (R341, R342) -/

/-- Kinds of message that are flooded. -/
def flooded (kind : Nat) : Bool := kind == 5 || kind == 6 || kind == 8

/-- The coordinate next to `x` on a ring. -/
def nextOn (size x : Nat) (plus : Bool) : Nat := if plus then (x + 1) % size else (x + size - 1) % size

/-- Where a flood goes on to from here, by dimension and way: along X from its source, along Y from every package on that line, along
Z from every package on those. -/
def floodTo (c : Chip) (m : LinkMsg) : List (Nat × Bool) :=
  let src (k : Nat) : Nat := [m.sx, m.sy, m.sz].getD k 0
  let from' (k : Nat) : Bool := (List.range 3).all fun j => j ≤ k || c.here j == src j
  ((List.range 3).filter from').flatMap fun k =>
    [true, false].filterMap fun w => if way (c.dim k) (src k) (nextOn (c.dim k) (c.here k) w) = some w then some (k, w) else none

/-- Send a flood on to the neighbours of its tree; a guest's goes out by its service link (R311, R341). -/
def floodOn (c : Chip) (m : LinkMsg) : Chip :=
  if c.serviceRole = 2 then c.sendDir [6] (toHeld 0 0 m)
  else (c.floodTo m).foldl (fun c x =>
    let at' (k : Nat) : Nat := if k = x.1 then nextOn (c.dim k) (c.here k) x.2 else c.here k
    c.sendDir (gang c.topoKind x.1 x.2) (toHeld 0 0 { m with dx := at' 0, dy := at' 1, dz := at' 2 })) c

/-! ### Slot copies (R318, R319) -/

/-- Lines that a COPY message of `n` flits carries. -/
def copyLines (n : Nat) : Nat := (240 * n - 24) / 144

/-- A copied line as it travels: its 128 bytes and its 16 check bytes, the poison pattern in those of a poisoned line (R319). -/
def copyLine (c : Chip) (a : Nat) : List Byte :=
  let l := c.peek a 128
  plain l ++ (checkBytes (plain l)).zipIdx.flatMap fun x => toLE 1 (x.1 ^^^ if dirty l then poisonByte x.2 else 0)

/-- A message of a slot, which travels one hop. -/
def slotMsg (c : Chip) (kind : Nat) (payload : List Byte) : LinkMsg :=
  { port := 0x3F, kind := kind, dx := 0, dy := 0, dz := 0, dbasin := 0, dharb := 0, sx := c.here 0, sy := c.here 1, sz := c.here 2,
    sbasin := 0, sharb := 0, body := 0, cargo := [], payload := payload }

/-- Send the next lines of the head copy of a die on a port, in at most `n` flits. -/
def sendCopy (c : Chip) (h p n : Nat) : Chip :=
  match c.copyQueue h with
  | [] => c
  | j :: _ =>
    let k := min (copyLines n) (j.len / 128)
    if k = 0 then c
    else
      let m := c.slotMsg 9 (toLE 8 j.dst ++ (List.range k).flatMap fun i => c.copyLine (j.src + 128 * i))
      let c := foldN k (fun c i => c.noteRead 0 (j.src + 128 * i) 128) c
      let j' : CopyJob := { src := j.src + 128 * k, dst := j.dst + 128 * k, link := j.link, len := j.len - 128 * k }
      let c := { c with fab := { c.fab with copies := modifyAt c.fab.copies (h - 20) fun l => l.set 0 j' } }
      c.startMsg p (toHeld 5 h m)

/-- Whether a tick lies in a slot (R318). -/
def inSlot (c : Chip) (s : Nat) : Bool := c.tide / 256 % 64 == s

end Chip
end Sys2Proof.Machine
end

