-- ==== Sys2Proof/Machine/Collectives.lean ====
section
/-! DEFINITION. Collectives and the sideband (R321 to R343): posting, grants, contributions folded in rank order, results with
their witnesses, delivery, timeouts, and the messages of pod barriers and ebb notices. -/

namespace Sys2Proof.Machine

/-! ### Elements and witnesses (R324, R327, R332) -/

/-- Formats a collective accepts (R322). -/
def collFmt (code : Nat) : Option Fmt := if code = 5 || code = 9 || code = 10 then Fmt.ofOutput code else none

/-- Elements of one cargo (R324). -/
def cargoElts (f : Fmt) : Nat := 65536 / (f.width / 8)

/-- dec of R327: the exact A40 value of each element of a payload. -/
def decElts (f : Fmt) (l : List Byte) : List A40 :=
  (unpackAll f.width (l.length / (f.width / 8)) l).map fun x => encA40 (decElt f x 127)

/-- The sum and magnitude witnesses of a payload (R332). -/
def witness (f : Fmt) (l : List Byte) : A40 × A40 :=
  let xs := decElts f l
  let pad := List.replicate (cargoElts f - xs.length) (0 : A40)
  (tree a40Add 0 (xs ++ pad), tree a40Add 0 (xs.map a40Abs ++ pad))

/-- The fold of R327. -/
def foldA40 : List A40 → A40
  | [] => 0
  | x :: t => t.foldl a40Add x

/-- β in units of 2 ^ −28, for G members (R333). -/
def beta28 (inFmt outFmt : Fmt) (g : Nat) : Nat :=
  2 * g + 2 * Nat.log2 (cargoElts inFmt) + 4 + (match outFmt with
    | .fp32 => 16
    | .bf16 => 2 ^ 20
    | _ => 2 ^ 19)

/-- A positive magnitude rounded toward +∞ in A40. -/
def a40Up (v : Val) : A40 :=
  let r := encA40 v
  match v, decA40 r with
  | .fin _ m e, .fin _ a x => if leMag m e a x then r else r + 1
  | _, _ => r

/-- The witness bound of R333; skipped when a witness is non-finite. -/
def boundHolds (inFmt outFmt : Fmt) (g : Nat) (wsum csum cmag : A40) : Bool :=
  if !(a40Finite wsum && a40Finite csum && a40Finite cmag) then true
  else
    let d := a40Add wsum (a40Neg csum)
    let b := beta28 inFmt outFmt g
    let bound := match decA40 cmag with
      | .fin _ m e => a40Up (.fin false (m * b) (e - 28))
      | v => encA40 v
    match decA40 d, decA40 bound with
    | .fin _ m e, .fin _ a x => leMag m e a x
    | .fin _ _ _, .inf _ => true
    | _, _ => false

/-- The cause of a non-finite reduced element from its contributions (R330); 0 when it is finite. -/
def reduceCause (xs : List A40) (v : Val) : Nat :=
  if v.isFinite then 0
  else if xs.any fun x => (decA40 x).isNan then 1
  else if v.isNan then 3
  else if xs.any fun x => (decA40 x).isInf then 4
  else 5

/-! ### Cargo headers (Table 09.9) -/

/-- The fields of a cargo header. -/
structure CargoHdr where
  seq : Nat
  kind : Nat
  group : Nat
  src : Nat
  owner : Nat
  fmt : Nat
  flags : Nat
  cargo : Nat
  elements : Nat
  epoch : Nat
  wsum : Nat
  wmag : Nat
  csum : Nat
  cmag : Nat
  members : Nat
  deriving DecidableEq, Repr

/-- Header bytes 0x00 to 0x37. -/
def CargoHdr.bytes (h : CargoHdr) : List Byte :=
  toLE 2 h.seq ++ toLE 1 h.kind ++ toLE 1 h.group ++ toLE 1 h.src ++ toLE 1 h.owner ++ toLE 1 h.fmt ++ toLE 1 h.flags ++
    toLE 4 h.cargo ++ toLE 4 h.elements ++ toLE 8 h.epoch ++ toLE 5 h.wsum ++ toLE 5 h.wmag ++ toLE 5 h.csum ++ toLE 5 h.cmag ++
    toLE 1 h.members ++ toLE 11 0

/-- The whole header with its CRC-64, payload first (R331). -/
def CargoHdr.seal (h : CargoHdr) (payload : List Byte) : List Byte := h.bytes ++ toLE 8 (crc64 (payload ++ h.bytes))

def CargoHdr.parse (l : List Byte) : CargoHdr :=
  { seq := leAt l 0 2, kind := leAt l 2 1, group := leAt l 3 1, src := leAt l 4 1, owner := leAt l 5 1, fmt := leAt l 6 1,
    flags := leAt l 7 1, cargo := leAt l 8 4, elements := leAt l 12 4, epoch := leAt l 16 8, wsum := leAt l 24 5,
    wmag := leAt l 29 5, csum := leAt l 34 5, cmag := leAt l 39 5, members := leAt l 44 1 }

/-- Whether a cargo message's CRC-64 is right; a message without a cargo has none. -/
def cargoCrcOk (m : LinkMsg) : Bool := m.cargo.isEmpty || leAt m.cargo 56 8 == crc64 (m.payload ++ m.cargo.take 56)

/-- A cargo message marked poisoned, sealed again (R310, R335). -/
def poisonCargo (m : LinkMsg) : LinkMsg :=
  let h := CargoHdr.parse m.cargo
  { m with cargo := ({ h with flags := h.flags ||| 2 }).seal m.payload }

/-! ### A posted collective (R324) -/

namespace Coll
def inF (k : Coll) : Fmt := (collFmt k.inFmt).getD .fp32
def outF (k : Coll) : Fmt := (collFmt k.outFmt).getD .fp32
def e (k : Coll) : Nat := cargoElts k.inF
/-- Whether its cargos are reduced by owners. -/
def reduces (k : Coll) : Bool := k.kind == 1 || k.kind == 2
end Coll

namespace Chip

/-- A register of the basin's reduction engines, held once for the basin (R344). -/
def redAt (c : Chip) (b : Nat) : Nat := c.firstHarbour b
def ownRank (c : Chip) (b : Nat) : Nat := c.regField (R.redIdent (c.redAt b)) 0 8
def ebbGroup (c : Chip) (b : Nat) : Nat := c.regField (R.redIdent (c.redAt b)) 8 4
def assigned (c : Chip) (b : Nat) : Bool := c.regField (R.redIdent (c.redAt b)) 12 1 == 1

/-- Coordinates and basin of a rank: none where it is not assigned. -/
def rankPlace (c : Chip) (b r : Nat) : Option (Nat × Nat × Nat × Nat) :=
  let v := c.reg (R.redRankmap (c.redAt b) (r / 4))
  let o := 16 * (r % 4)
  if fbit v (o + 14) then some (fget v o 4, fget v (o + 4) 4, fget v (o + 8) 4, fget v (o + 12) 2) else none

/-- Members of a group, ascending rank (R321). -/
def members (c : Chip) (b g : Nat) : List Nat :=
  (List.range 256).filter fun r => fbit (c.reg (R.redGroup (c.redAt b) g (r / 64))) (r % 64)

/-- Members of a posted collective. -/
def collMembers (c : Chip) (b : Nat) (k : Coll) : List Nat :=
  if k.kind = 5 then [c.ownRank b, k.peer] else if k.kind = 6 then [k.peer, c.ownRank b] else c.members b k.group
def collG (c : Chip) (b : Nat) (k : Coll) : Nat := (c.collMembers b k).length
/-- This basin's member index. -/
def collMe (c : Chip) (b : Nat) (k : Coll) : Nat := (c.collMembers b k).idxOf (c.ownRank b)

/-- Length of the vector a cargo covers (Table 09.8). -/
def collLen (c : Chip) (b : Nat) (k : Coll) : Nat := if k.kind = 2 then k.n / max (c.collG b k) 1 else k.n
/-- Cargos of that vector. -/
def collCargos (c : Chip) (b : Nat) (k : Coll) : Nat := ceilDiv (c.collLen b k) k.e
/-- Elements of cargo j. -/
def cargoCount (c : Chip) (b : Nat) (k : Coll) (j : Nat) : Nat := min k.e (c.collLen b k - j * k.e)
/-- Whether this basin owns cargo j. -/
def ownsCargo (c : Chip) (b : Nat) (k : Coll) (j : Nat) : Bool :=
  k.kind == 2 || (k.kind == 1 && j % max (c.collG b k) 1 == c.collMe b k)
/-- Cargos this basin owns. -/
def ownedCargos (c : Chip) (b : Nat) (k : Coll) : List Nat :=
  if k.reduces then (List.range (c.collCargos b k)).filter (c.ownsCargo b k) else []
/-- Element offset in the contribution of cargo j of the owner with member index `o`. -/
def srcOff (c : Chip) (b : Nat) (k : Coll) (o j : Nat) : Nat := (if k.kind = 2 then o * c.collLen b k else 0) + j * k.e
/-- Element offset in the results of cargo j from member `s`. -/
def dstOff (k : Coll) (s j : Nat) : Nat := (if k.kind = 3 then s * k.n else 0) + j * k.e
/-- A delivered cargo's key. -/
def cargoKey (k : Coll) (s j : Nat) : Nat := if k.kind = 3 then s * 2 ^ 26 + j else j
/-- Keys of every cargo addressed to the basin, of a SEND those it sends, in cargo order. -/
def collKeys (c : Chip) (b : Nat) (k : Coll) : List (Nat × Nat) :=
  if k.kind = 3 then (List.range (c.collG b k)).flatMap fun s => tabulate (c.collCargos b k) fun j => (s, j)
  else tabulate (c.collCargos b k) fun j => (0, j)
/-- Contributions the basin sends to other members. -/
def collSends (c : Chip) (b : Nat) (k : Coll) : Nat :=
  if k.kind = 1 then c.collCargos b k - (c.ownedCargos b k).length
  else if k.kind = 2 then (c.collG b k - 1) * c.collCargos b k
  else 0

/-- The epoch of a basin's messages (Table 09.9). -/
def epochOf (c : Chip) (b : Nat) : Nat :=
  (c.reg (R.seqStep b)).toNat % 2 ^ 56 + c.regField (R.rngIdent (c.firstSett b)) 8 8 * 2 ^ 56

def collMet (c : Chip) (b : Nat) (k : Coll) : Bool := (c.collKeys b k).all fun x => k.delivered.contains (cargoKey k x.1 x.2)
/-- Nothing is left to deliver, fold or send. -/
def collDone (c : Chip) (b : Nat) (k : Coll) : Bool :=
  c.collMet b k && k.sent.length == c.collSends b k && k.folded.length == (c.ownedCargos b k).length

def setColl (c : Chip) (b i : Nat) (f : Coll → Coll) : Chip := c.setBasin b fun x => { x with colls := modifyAt x.colls i f }
def coll (c : Chip) (b i : Nat) : Option Coll := (c.basin b).colls[i]?
/-- Completed collectives leave the queue. -/
def sweepColls (c : Chip) (b : Nat) : Chip :=
  c.setBasin b fun x => { x with colls := x.colls.filter fun k => !c.collDone b k }

/-! ### Sending -/

/-- A message of a basin to a rank's basin; none where the rank is not assigned. -/
def msgTo (c : Chip) (b kind rank j body : Nat) (cargo payload : List Byte) : Option LinkMsg :=
  (c.rankPlace b rank).map fun p => {
    port := 0, kind := kind, dx := p.1, dy := p.2.1, dz := p.2.2.1, dbasin := p.2.2.2, dharb := j % c.harbourCount,
    sx := c.here 0, sy := c.here 1, sz := c.here 2, sbasin := b, sharb := j % c.harbourCount, body := body, cargo := cargo,
    payload := payload }

def postTo (c : Chip) (b kind rank j body : Nat) (cargo payload : List Byte) : Chip :=
  match c.msgTo b kind rank j body cargo payload with
  | some m => c.post m
  | none => c

/-- Bytes of a run of elements of the contribution. -/
def contribBytes (c : Chip) (b : Nat) (k : Coll) (off n : Nat) : List PByte :=
  c.farPeek b (k.src + off * (k.inF.width / 8)) (n * (k.inF.width / 8))
/-- What reading it records: the codes' events. -/
def contribNote (c : Chip) (b : Nat) (k : Coll) (off n : Nat) : Chip :=
  (piecesOf (k.src + off * (k.inF.width / 8)) (n * (k.inF.width / 8))).foldl (fun c p => match c.farMap b p.a with
    | some d => c.noteRead k.core d p.n
    | none => c) c

/-- The header of a cargo this basin sends of its own contribution. -/
def contribHdr (c : Chip) (b : Nat) (k : Coll) (owner j : Nat) (data : List PByte) : CargoHdr :=
  let w := witness k.inF (plain data)
  let nf := (decElts k.inF (plain data)).any fun x => !a40Finite x
  { seq := k.seq, kind := k.kind, group := if k.kind = 5 then k.tag else k.group, src := c.ownRank b, owner := owner,
    fmt := k.inFmt, flags := (if dirty data then 2 else 0) + (if nf then 4 else 0) + (if k.loose then 8 else 0), cargo := j,
    elements := data.length / (k.inF.width / 8), epoch := k.epoch, wsum := w.1.toNat, wmag := w.2.toNat, csum := 0, cmag := 0,
    members := c.collG b k - 1 }

/-! ### Delivery (R330, R333, R335) -/

/-- Latch RED_CARGO_REC (Table 09.22). -/
def cargoRec (c : Chip) (b kind src j port seq group : Nat) : Chip :=
  let w := packF [(0, 1, 1), (1, 3, kind), (4, 8, src), (12, 26, j), (38, 6, port), (44, 16, seq), (60, 4, group)]
  if kind = 4 || kind = 6 then c.latch (R.redCargoRec (c.redAt b)) w
  else c.capture (R.redCargoRec (c.redAt b)) w (if kind = 5 then 0x17 else 0x16) b

/-- The mark, among the causes of a delivered cargo's elements, of one that the basin's own conversion saturated: its position is
recorded with cause 0 and nothing is charged (R77, R330). -/
def satMark : Nat := 8

/-- Write a cargo at dst_addr: written, charged, its first overflow or non-finite element recorded, counted (R77, R291, R330, R335). -/
def landCargo (c : Chip) (b i : Nat) (x : Delivery) : Chip :=
  match c.coll b i with
  | none => c
  | some k =>
    let key := cargoKey k x.s x.j
    if k.delivered.contains key then c
    else
      let off := dstOff k x.s x.j
      let w := k.outF.width / 8
      let bytes : List PByte := if x.poisoned then x.payload.map fun _ => none else clean x.payload
      let c := c.farStore (c.firstCore b) b 0xB 4 true (k.dst + off * w) bytes
      let c := if x.poisoned then c else
        (x.causes.zip (List.range x.causes.length)).foldl (fun c x =>
          if x.1 = 0 then c
          else (if x.1 = satMark then c else c.charge k.core 6 x.1 (c.core k.core).cycle).latch (R.redFF (c.redAt b))
            (packF [(0, 1, 1), (1, 3, x.1 % satMark), (4, 40, off + x.2), (44, 16, k.seq), (60, 4, k.group)])) c
      let c := if x.loose then c.setField (R.seqStepStatus b) 9 1 1 else c
      let c := c.addField (R.redStatus (c.redAt b)) 32 32 1
      let c := c.setAcc b fun a =>
        { a with colls := if k.delivered.isEmpty then satAdd 32 a.colls 1 else a.colls, cargos := satAdd 32 a.cargos 1,
                 crcs := a.crcs ++ [(k.launch * 2 ^ 32 + k.order, key, x.crc)] }
      c.setColl b i fun k => { k with delivered := k.delivered ++ [key] }

/-- Deliver a cargo: in place, a result waits until the basin has sent all of its own contribution (R323). -/
def deliver (c : Chip) (b i : Nat) (x : Delivery) : Chip :=
  match c.coll b i with
  | none => c
  | some k =>
    if k.src = k.dst && k.reduces && k.sent.length < c.collSends b k then c.setColl b i fun k => { k with held := k.held ++ [x] }
    else c.landCargo b i x

/-- The results that waited for the basin's contributions are written once the last has left. -/
def landHeld (c : Chip) (b i : Nat) : Chip :=
  match c.coll b i with
  | none => c
  | some k =>
    if k.sent.length < c.collSends b k then c
    else k.held.foldl (fun c x => c.landCargo b i x) (c.setColl b i fun k => { k with held := [] })

/-! ### Folding (R327 to R333) -/

/-- The elements of a reduced cargo of `n` elements, with the cause each charges: contributions of members `ms` added in ascending rank,
or as they came under LOOSE, each sum converted once (R329, R330). -/
def reduceEls (k : Coll) (ms : List Nat) (mine : List Contrib) (n : Nat) : List (ConvElt × Nat) :=
  let seqd := if k.loose then mine else ms.filterMap fun r => mine.find? fun x => x.member = r
  let cols := seqd.map fun x => decElts k.inF x.payload
  tabulate n fun q =>
    let xs := cols.map fun l => l.getD q 0
    let v := convOne k.outF { Rnd.ofBits k.rnd with stoch := false } none (decA40 (foldA40 xs))
    (v, reduceCause xs (decElt k.outF v.code 127))

/-- Form and send the result of an owned cargo whose contributions are all there. -/
def foldCargo (c : Chip) (b i j : Nat) : Chip :=
  match c.coll b i with
  | none => c
  | some k =>
    let ms := c.collMembers b k
    let mine := k.contribs.filter fun x => x.cargo = j
    if k.folded.contains j || mine.length < ms.length then c
    else
      let n := c.cargoCount b k j
      let els := reduceEls k ms mine n
      let payload := packBits k.outF.width (els.map fun x => x.1.code)
      let byRank := ms.filterMap fun r => mine.find? fun x => x.member = r
      let csum := foldA40 (byRank.map fun x => BitVec.ofNat 40 x.wsum)
      let cmag := foldA40 (byRank.map fun x => BitVec.ofNat 40 x.wmag)
      let w := witness k.outF payload
      let mism := mine.any Contrib.mismatch
      let bad0 := mine.any Contrib.poisoned || mism
      let fail := !bad0 && !boundHolds k.inF k.outF ms.length w.1 csum cmag
      let me := c.ownRank b
      let c := match mine.find? Contrib.mismatch with
        | some x => (c.event (R.redEvents (c.redAt b)) 2).cargoRec b 4 x.member j x.port k.seq k.group
        | none => c
      let c := if fail then
          ((c.event (R.redEvents (c.redAt b)) 1).cargoRec b 2 me j 0x3F k.seq k.group).hwFault 0xA (c.redAt b + j % c.harbourCount) 0 7
        else c
      let bad := bad0 || fail
      let loose := k.loose || mine.any Contrib.loose
      let sats := (els.filter fun x => x.1.sat).length
      let c := if bad0 then c else c.events (R.redEvents (c.redAt b)) 6 sats
      let h : CargoHdr :=
        { seq := k.seq, kind := k.kind, group := k.group, src := me, owner := me, fmt := k.outFmt,
          flags := 1 + (if bad then 2 else 0) + (if els.any fun x => x.2 != 0 then 4 else 0) + (if loose then 8 else 0),
          cargo := j, elements := n, epoch := k.epoch, wsum := w.1.toNat, wmag := w.2.toNat, csum := csum.toNat,
          cmag := cmag.toNat, members := ms.length - 1 }
      let hb := h.seal payload
      let c := c.setColl b i fun k =>
        { k with folded := k.folded ++ [j], contribs := k.contribs.filter fun x => x.cargo ≠ j,
                 granted := k.granted.filter fun g => g.1 ≠ j }
      let causes := els.map Prod.snd
      let nf := (causes.zipIdx.filter fun x => x.1 != 0).map fun x => (x.2, x.1)
      let c := if k.kind = 2 then c else
        (ms.filter fun r => r ≠ me).foldl (fun c r => match c.msgTo b 2 r j 0 hb payload with
          | some m => c.post { m with causes := nf }
          | none => c) c
      let own := els.map fun x => if x.1.sat then satMark else x.2
      c.deliver b i { s := 0, j := j, payload := payload, poisoned := bad, loose := loose, causes := own, crc := leAt hb 56 8 }

/-- Grant contributions (R328, R329): each engine handles four cargos at once, each cargo has grants out to its eight lowest
members not yet received, or to every member under LOOSE. -/
def grantAll (c : Chip) (b : Nat) : Chip :=
  foldN (c.basin b).colls.length (fun c i => match c.coll b i with
    | none => c
    | some k =>
      let ms := c.collMembers b k
      let me := c.ownRank b
      (c.ownedCargos b k).foldl (fun c j =>
        let cur := (c.coll b i).getD k
        let active := (c.basin b).colls.flatMap fun x => (x.granted.map Prod.fst).eraseDups.filter fun q => q % c.harbourCount = j % c.harbourCount
        let on := cur.granted.any fun g => g.1 = j
        if cur.folded.contains j || (!on && 4 ≤ active.length) then c
        else
          let have' (r : Nat) : Bool := r == me || cur.contribs.any fun x => x.cargo == j && x.member == r
          let due := if k.loose then ms.filter fun r => !have' r else (ms.filter fun r => !have' r).take 8
          let new := due.filter fun r => !cur.granted.any fun g => g.1 = j && g.2 = r
          let c := c.setColl b i fun x => { x with granted := x.granted ++ new.map fun r => (j, r) }
          new.foldl (fun c r => c.postTo b 4 r j (j + k.seq * 2 ^ 32 + r * 2 ^ 48 + k.group * 2 ^ 56) [] []) c) c) c

/-- Fold every owned cargo that is complete, then grant what that allows. -/
def pumpColls (c : Chip) (b : Nat) : Chip :=
  let c := foldN (c.basin b).colls.length (fun c i => match c.coll b i with
    | some k => (c.ownedCargos b k).foldl (fun c j => c.foldCargo b i j) c
    | none => c) c
  c.grantAll b

/-! ### Arrivals -/

/-- The basin a message is for: its destination basin where the cut has it. -/
def msgBasin (_ : Chip) (m : LinkMsg) : Nat := m.dbasin

/-- A stale message is discarded (R325). -/
def staleMsg (c : Chip) (b : Nat) (h : CargoHdr) (port : Nat) : Chip :=
  (c.event (R.redEvents (c.redAt b)) 5).cargoRec b 6 h.src h.cargo port h.seq h.group

/-- CRC and witness at a final receiver (R333): none when good, else the record's kind. -/
def cargoCheck (m : LinkMsg) (h : CargoHdr) : Option Nat :=
  if !cargoCrcOk m then some 0
  else match collFmt h.fmt with
    | none => some 1
    | some f =>
      let w := witness f m.payload
      if w.1.toNat = h.wsum && w.2.toNat = h.wmag then none else some 1

/-- Record a failed cargo check at a receiver (Table 09.10). -/
def cargoFail (c : Chip) (b kind port : Nat) (h : CargoHdr) : Chip :=
  (c.event (R.redEvents (c.redAt b)) (if kind = 3 then 1 else 0)).cargoRec b kind h.src h.cargo port h.seq h.group

/-- The posted collective a cargo of kind `k` belongs to. -/
def findColl (c : Chip) (b : Nat) (f : Coll → Bool) : Option Nat :=
  let l := (c.basin b).colls
  ((l.zip (List.range l.length)).find? fun x => f x.1).map Prod.snd

/-- Whether a posted collective is the one a cargo header names. -/
def hdrMatches (h : CargoHdr) (k : Coll) : Bool :=
  k.seq == h.seq && k.epoch == h.epoch &&
    (if h.kind = 5 then k.kind == 6 && k.peer == h.src && k.tag == h.group
     else k.kind != 5 && k.kind != 6 && k.group == h.group)

/-- The harbour die of a basin that a message is for, as `meshBroken` numbers it. -/
def msgNode (c : Chip) (m : LinkMsg) : Nat := 20 + c.firstHarbour (c.msgBasin m) + m.dharb % max c.harbourCount 1

/-- Whether a cargo is poisoned on its way over the mesh to its harbour die, from its port or within the package (R37). -/
def cargoBroken (c : Chip) (m : LinkMsg) : Bool := c.meshBroken (c.msgNode m)

/-- A cargo of a SEND is acknowledged by the receiving basin (R337) (log entry 24, DEDUCED). -/
def sendMet (c : Chip) (m : LinkMsg) : Chip :=
  let x := CargoHdr.parse m.cargo
  let b := m.sbasin
  if x.kind ≠ 5 then c
  else match c.findColl b fun k => k.kind == 5 && k.seq == x.seq && k.tag == x.group && k.epoch == x.epoch &&
      !k.delivered.contains x.cargo && c.rankPlace b k.peer == some (m.dx, m.dy, m.dz, m.dbasin) with
    | some i => (c.setColl b i fun k => { k with delivered := k.delivered ++ [x.cargo] }).sweepColls b
    | none => c

/-- A contribution reaches its owner (R325 to R333). -/
def takeContrib (c : Chip) (m : LinkMsg) : Chip :=
  let b := c.msgBasin m
  let broken := c.cargoBroken m
  let c := if broken then c.meshFault (c.msgNode m) else c
  let h := CargoHdr.parse m.cargo
  let chk := cargoCheck m h
  let c := match chk with
    | some x => c.cargoFail b x m.port h
    | none => c
  if h.epoch ≠ c.epochOf b then (if chk = some 0 then c else c.staleMsg b h m.port)
  else match c.findColl b (hdrMatches h) with
    | none => c
    | some i =>
      match c.coll b i with
      | none => c
      | some k =>
        if k.contribs.any (fun x => x.cargo = h.cargo && x.member = h.src) || k.folded.contains h.cargo ||
            !(k.granted.any fun g => g.1 = h.cargo && g.2 = h.src) then c
        else
          let mism := h.kind != k.kind || h.fmt != k.inFmt || h.members + 1 != c.collG b k ||
            h.elements != c.cargoCount b k h.cargo
          let x : Contrib :=
            { cargo := h.cargo, member := h.src, payload := m.payload, wsum := h.wsum, wmag := h.wmag,
              poisoned := chk.isSome || broken || bits h.flags 1 1 = 1, mismatch := mism, loose := bits h.flags 3 1 == 1, port := m.port }
          let c := c.setColl b i fun k =>
            { k with contribs := k.contribs ++ [x] }
          (c.pumpColls b).sweepColls b

/-- A grant lets this basin send its contribution to a cargo (R328), once: a GRANT sent again (R306) finds it sent. -/
def takeGrant (c : Chip) (m : LinkMsg) : Chip :=
  let b := c.msgBasin m
  let c := c.meshNote (c.msgNode m)
  let j := bits m.body 0 32
  let seq := bits m.body 32 16
  let group := bits m.body 56 4
  match c.findColl b fun k => k.reduces && k.group == group && k.seq == seq with
  | none => c.setBasin b fun x => { x with early := x.early ++ [m] }
  | some i =>
    match c.coll b i with
    | none => c
    | some k =>
      let ms := c.collMembers b k
      match ms.find? fun r => c.rankPlace b r == some (m.sx, m.sy, m.sz, m.sbasin) with
      | none => c
      | some owner =>
        if k.sent.contains (owner, j) then c else
        let off := c.srcOff b k (ms.idxOf owner) j
        let data := c.contribBytes b k off (c.cargoCount b k j)
        let h := c.contribHdr b k owner j data
        let c := c.contribNote b k off (c.cargoCount b k j)
        let c := c.postTo b 1 owner j 0 (h.seal (plain data)) (plain data)
        ((c.setColl b i fun k => { k with sent := k.sent ++ [(owner, j)] }).landHeld b i).sweepColls b

/-- The cause that a non-finite element of a delivered cargo charges (R330): a data cargo has one contribution; a result's message tells
what its contributions were, `told` (log entry 63, DESIGN CHOICE). -/
def deliveredCause (isResult : Bool) (told : Option Nat) (x : A40) : Nat :=
  if a40Finite x then 0
  else if !isResult then (if (decA40 x).isNan then 1 else 4)
  else told.getD (if (decA40 x).isNan then 3 else 5)

/-- A result or data cargo reaches a member (R325, R330, R333, R335). One that fails its CRC-64 before its collective is posted is kept
as a poisoned one, as a forwarding package would send it on (log entry 24, DEDUCED). -/
def takeCargo (c : Chip) (m : LinkMsg) (isResult : Bool) : Chip :=
  let b := c.msgBasin m
  let c := if m.port = 0x3F then c.sendMet m else c
  let h := CargoHdr.parse m.cargo
  let chk := cargoCheck m h
  let corrupt := chk == some 0
  let c := if corrupt then c.cargoFail b 0 m.port h else c
  if h.epoch ≠ c.epochOf b then (if corrupt then c else c.staleMsg b h m.port)
  else match c.findColl b fun k => hdrMatches h k && (!isResult || k.kind == 1) && (isResult || k.kind != 1) with
  | none => c.setBasin b fun x => { x with early := x.early ++ [if corrupt then poisonCargo m else m] }
  | some i =>
    match c.coll b i with
    | none => c
    | some k =>
      let ms := c.collMembers b k
      let bound := isResult && chk.isNone && bits h.flags 1 1 = 0 &&
        !boundHolds k.inF k.outF ms.length (BitVec.ofNat 40 h.wsum) (BitVec.ofNat 40 h.csum) (BitVec.ofNat 40 h.cmag)
      let c := if chk = some 1 then c.cargoFail b 1 m.port h else if bound then c.cargoFail b 3 m.port h else c
      let broken := c.cargoBroken m
      let c := if broken then c.meshFault (c.msgNode m) else c
      let bad := chk.isSome || bound || broken || bits h.flags 1 1 = 1
      let xs := decElts k.outF m.payload
      let told (n : Nat) : Option Nat := (m.causes.find? fun x => x.1 = n).map Prod.snd
      let causes := xs.zipIdx.map fun x => deliveredCause isResult (told x.2) x.1
      let c := c.deliver b i { s := ms.idxOf h.src, j := h.cargo, payload := m.payload, poisoned := bad,
                               loose := bits h.flags 3 1 == 1, causes := causes, crc := leAt m.cargo 56 8 }
      (c.pumpColls b).sweepColls b

/-- A message of this package that its neighbour has acknowledged (R337). -/
def sendAcked (c : Chip) (h : Held) : Chip := if h.m.port ≠ 0x3F || h.m.kind ≠ 3 then c else c.sendMet h.m

/-- An acknowledgement: everything before it leaves the replay buffer (R313). -/
def ackPort (c : Chip) (p ack : Nat) : Chip :=
  let done := (c.port p).replay.filter (covers ack)
  let c := c.setPort p fun x =>
    { x with replay := x.replay.filter fun h => !covers ack h,
             retries := if ack = x.acked then x.retries else 0, since := if ack = x.acked then x.since else c.tide, acked := ack }
  done.foldl (fun c h => (c.copyAcked h).sendAcked h) c

/-! ### Posting (R322 to R326) -/

/-- Whether a range of basin addresses is mapped and wholly in DRAM or in one harbour's pinned ways (R323). -/
def collRange (c : Chip) (b a n : Nat) : Bool :=
  let z := a + n - 1
  if a < c.settCount * stackSize then z < c.settCount * stackSize
  else match c.relocate b a, c.relocate b z with
    | some d, some e => (match c.region d, c.region e with
      | .pinned h _, .pinned h' _ => h == h'
      | _, _ => false)
    | _, _ => false

/-- A FABRIC that breaks R323: not posted, a poisoned write reported. -/
def fabricErr (c : Chip) (b core : Nat) (addr : Nat) : Chip :=
  ((c.schedErr core (R.redEvents (c.redAt b)) 4 0).report core 1 0xB addr)

/-- Read the early messages again now that a collective is posted (log entry 24, DEDUCED). -/
def replayEarly (c : Chip) (b : Nat) : Chip :=
  let l := (c.basin b).early
  let c := c.setBasin b fun x => { x with early := [] }
  l.foldl (fun c m => if m.kind = 4 then c.takeGrant m else c.takeCargo m (m.kind == 2)) c

/-- FABRIC posts a collective (R322 to R326) in cycle `cyc` (log entry 24, DEDUCED). -/
def fabricIssue (c : Chip) (core idx : Nat) (loose : Bool) (cyc : Nat) : Chip :=
  let b := c.basinOfCore core
  let desc := c.descBytes core 7 idx 64
  let c := c.descNote core 7 idx 64
  match desc with
  | none => c.markLoose core loose
  | some l =>
    let d := fromLE l
    let kind := bits d 0 4
    let group := bits d 4 4
    let n := bits d 40 40
    let src := bits d 80 48
    let dst := bits d 128 48
    let peer := bits d 8 8
    let tag := bits d 16 8
    let bs := c.basin b
    let pair := kind = 5 || kind = 6
    let key := if pair then 256 * (256 * (16 + kind) + peer) + tag else group
    let seq := ((bs.posts.find? fun p => p.1 = key).map Prod.snd).getD 0
    let k : Coll :=
      { kind := kind, group := if pair then 0 else group, peer := peer, tag := tag, inFmt := bits d 24 4, outFmt := bits d 28 4,
        rnd := bits d 32 4, n := n, src := src, dst := dst, seq := seq % 65536, order := bs.posted, core := core, issue := cyc,
        deadline := cyc + bits d 176 24, tick := c.tide, loose := loose, contribs := [], granted := [], folded := [],
        delivered := [], held := [], launch := bs.launchNo, sent := [], epoch := c.epochOf b }
    let me := c.ownRank b
    let ms := c.collMembers b k
    let g := ms.length
    let inB := k.inF.width / 8
    let outB := k.outF.width / 8
    let sLen := if kind = 6 || (kind = 4 && me ≠ peer) then 0 else n * inB
    let dLen := if kind = 5 then 0 else if kind = 2 then n / max g 1 * outB else if kind = 3 then g * n * outB else n * outB
    let bad := 16 ≤ bs.colls.length || kind = 0 || 6 < kind || (collFmt k.inFmt).isNone || (collFmt k.outFmt).isNone ||
      (2 < kind && k.inFmt ≠ k.outFmt) || (!pair && !ms.contains me) || n = 0 || src % 128 ≠ 0 || dst % 128 ≠ 0 ||
      (sLen ≠ 0 && !c.collRange b src sLen) || (dLen ≠ 0 && !c.collRange b dst dLen) ||
      (sLen ≠ 0 && dLen ≠ 0 && src ≠ dst && src < dst + dLen && dst < src + sLen) ||
      (kind = 2 && n % max g 1 ≠ 0) || c.slotMode
    if bad then c.fabricErr b core (if sLen ≠ 0 then src else dst)
    else
      let c := if (Rnd.ofBits k.rnd).reserved then c.schedErr core (R.redEvents (c.redAt b)) 4 0 else c
      let c := c.markLoose core loose
      let i := bs.colls.length
      let c := c.setBasin b fun x =>
        { x with colls := x.colls ++ [k], posted := x.posted + 1,
                 posts := (key, seq + 1) :: x.posts.filter fun p => p.1 ≠ key }
      let c := c.addField (R.redStatus (c.redAt b)) 8 24 1
      let cargos := c.collCargos b k
      -- the basin's own contribution takes its place at once; data cargos leave at once
      let c := if k.reduces then
          (c.ownedCargos b k).foldl (fun c j =>
            let off := c.srcOff b k (c.collMe b k) j
            let data := c.contribBytes b k off (c.cargoCount b k j)
            let w := witness k.inF (plain data)
            (c.contribNote b k off (c.cargoCount b k j)).setColl b i fun x =>
              { x with contribs := x.contribs ++ [{ cargo := j, member := me, payload := plain data, wsum := w.1.toNat,
                                                    wmag := w.2.toNat, poisoned := dirty data, mismatch := false,
                                                    loose := loose, port := 0x3F }] }) c
        else if sLen = 0 then c
        else foldN cargos (fun c j =>
          let data := c.contribBytes b k (j * k.e) (c.cargoCount b k j)
          let h := c.contribHdr b k me j data
          let hb := h.seal (plain data)
          let c := c.contribNote b k (j * k.e) (c.cargoCount b k j)
          let c := (if kind = 5 then [peer] else ms.filter fun r => r ≠ me).foldl (fun c r => c.postTo b 3 r j 0 hb (plain data)) c
          if kind = 5 then c
          else c.deliver b i { s := c.collMe b k, j := j, payload := plain data, poisoned := dirty data, loose := loose,
                               causes := (decElts k.inF (plain data)).map (deliveredCause false none), crc := leAt hb 56 8 }) c
      ((c.pumpColls b).replayEarly b).sweepColls b

/-- The end of a collective at its timeout (R339): undelivered cargos written poisoned, the first missing one recorded. -/
def collTimedOut (c : Chip) (b i : Nat) : Chip :=
  match c.coll b i with
  | none => c
  | some k =>
    let miss := (c.collKeys b k).filter fun x => !k.delivered.contains (cargoKey k x.1 x.2)
    let c := if k.kind = 5 then c else miss.foldl (fun c x =>
      c.farStore (c.firstCore b) b 0xB 4 true (k.dst + dstOff k x.1 x.2 * (k.outF.width / 8))
        (List.replicate (c.cargoCount b k x.2 * (k.outF.width / 8)) none)) c
    let first := miss.headD (0, 0)
    let ms := c.collMembers b k
    let src := if k.kind = 1 then ms.getD (first.2 % max ms.length 1) 0 else if k.kind = 2 then c.ownRank b
      else if k.kind = 3 then ms.getD first.1 0 else if k.kind = 5 then c.ownRank b else k.peer
    let c := (c.event (R.redEvents (c.redAt b)) 3).cargoRec b 5 src first.2 0x3F k.seq k.group
    let c := c.setAcc b fun a => { a with timeout := true }
    c.setBasin b fun x => { x with colls := (x.colls.zip (List.range x.colls.length)).filterMap fun e => if e.2 = i then none else some e.1 }

/-! ### Sideband (R341 to R343) -/

/-- A full tick from its low 48 bits: the one nearest the present count. -/
def fullTick (c : Chip) (t : Nat) : Nat :=
  let base := c.tide / 2 ^ 48 * 2 ^ 48 + t
  if c.tide + 2 ^ 47 < base then base - 2 ^ 48 else if base + 2 ^ 47 < c.tide then base + 2 ^ 48 else base

/-- Flood a notice of a basin over the pod (R341, R342); other basins of its own package take it as it comes back. -/
def flood (c : Chip) (b kind body : Nat) : Chip :=
  let m : LinkMsg := {
    port := 0x3F, kind := kind, dx := c.here 0, dy := c.here 1, dz := c.here 2, dbasin := 0, dharb := 0, sx := c.here 0, sy := c.here 1,
    sz := c.here 2, sbasin := b, sharb := 0, body := body, cargo := [], payload := [] }
  (if 1 < c.basinCount then c.out (.link 0x3F m []) else c).floodOn m

/-- Release tick of a pod barrier: T_last + L_bar, lbar_min where L_bar is zero (R342, R343). -/
def podLbar (c : Chip) (b id : Nat) : Nat :=
  let r := R.redBar (c.redAt b) id
  if c.regField r 8 24 = 0 then c.regField r 32 24 else c.regField r 8 24

/-- A barrier of id `id` completes in a basin: its release tick is known, its epoch advances; a member, the root among them, that learns
of it after that tick is late (R267, R343). -/
def podRelease (c : Chip) (b id tick : Nat) : Chip :=
  let r := R.redBar (c.redAt b) id
  let c := c.setBasin b fun x => { x with barRelease := some tick }
  let c := c.setField r 56 8 ((c.regField r 56 8 + 1) % 256)
  if c.tide ≤ tick then c
  else ((c.settsOf b).foldl (fun c s => c.event (R.tidEvents s) 4) c).timing b 0

/-- An arrival at the root: when every member has arrived the root floods the release (R342). -/
def rootArrive (c : Chip) (b id rank tick : Nat) : Chip :=
  let r := R.redBar (c.redAt b) id
  let group := c.regField r 0 4
  let c := c.setBasin b fun x =>
    { x with arrivals := x.arrivals.filter (fun a => !(a.id = id && a.rank = rank)) ++ [{ id := id, rank := rank, tick := tick }] }
  let arr := (c.basin b).arrivals.filter fun a => a.id = id
  if (c.members b group).all fun m => arr.any fun a => a.rank = m then
    let last := arr.foldl (fun t a => max t a.tick) 0
    let rel := last + c.podLbar b id
    let epoch := c.regField r 56 8
    let c := c.setBasin b fun x => { x with arrivals := x.arrivals.filter fun a => a.id ≠ id }
    let c := c.flood b 8 (id + epoch * 2 ^ 6 + rel % 2 ^ 48 * 2 ^ 14)
    c.podRelease b id rel
  else c

/-- The last core of a basin arrives at a barrier (R267, R342). -/
def basinArrives (c : Chip) (b id : Nat) : Chip :=
  if id = 0 then c.setBasin b fun x => { x with barRelease := some (c.tide + 16) }
  else
    let group := c.regField (R.redBar (c.redAt b) id) 0 4
    match c.members b group with
    | [] => c
    | root :: _ =>
      if root = c.ownRank b then c.rootArrive b id root c.tide
      else c.postTo b 7 root 0 (id + c.ownRank b * 2 ^ 6 + c.tide % 2 ^ 48 * 2 ^ 14) [] []

end Chip
end Sys2Proof.Machine
end

