-- ==== Sys2Proof/Machine/Ebbs.lean ====
section
/-! DEFINITION. Ebbs (R255 to R261): raising a cause at a boundary, its pending edges, the end of an ebb with its log entry, and
the notices of pod scope. -/

namespace Sys2Proof.Machine

/-- An ebb takes one more cause: an adjudication queued on one already pending lengthens it (R105); any other that is already pending
stays so until the later of its two ends. -/
def Ebb.add (e : Ebb) (p : Pend) : Ebb :=
  let same (q : Pend) : Bool := q.core == p.core && q.cause == p.cause
  { e with causes := e.causes ||| 2 ^ (p.cause - 1), core := min e.core p.core,
           pend := if e.pend.any same then e.pend.map fun q =>
               if same q then { q with left := match q.left, p.left with
                 | some a, some b => some (if p.cause = 3 then a + b else max a b)
                 | _, _ => none } else q
             else e.pend ++ [p] }

namespace Chip

/-- The cycle in which a core's next bundle issues. -/
def nextIssue (c : Chip) (i : Nat) : Nat := (c.core i).cycle + (c.core i).waitLeft + 1

/-- Whether a core comes of itself to the boundary before cycle `d`; one that holds stands at it (R271). -/
def reaches (c : Chip) (i d : Nat) : Bool :=
  let k := c.core i
  (c.basin (c.basinOfCore i)).live && k.phase != .idle && c.dev != .faulted && k.cycle < d &&
    d ≤ k.cycle + (if k.hold.isSome then 0 else c.cyclesLeft i) + 1 &&
    (match k.ebb with
      | some e => e.held == 0 && e.start == d
      | none => true)

/-- Let time pass to the tick that carries the edge in which a core would enter cycle `d`; none where the core does not come to
that boundary. -/
def toBoundary (c : Chip) (i d : Nat) : Option Chip :=
  if !c.reaches i d then none
  else
    let k := c.core i
    let c := if k.ebb.isSome then c else passEdges 1000 c (c.edgesFor i (d - 1 - k.cycle) + k.ahead + 1)
    if (c.core i).cycle + 1 = d then some c else none

/-- Send a pod-scope notice: rank, notice sequence and group (R260, R341). -/
def ebbNotice (c : Chip) (b kind : Nat) : Chip :=
  c.flood b kind (c.ownRank b + (c.basin b).ebbNotice % 256 * 2 ^ 8 + c.ebbGroup b * 2 ^ 16)

/-- Raise a cause in core `i` at the boundary before cycle `d`; `left` is how many edges it stays pending (R255 to R261). A
REMOTE_EBB is raised in the basin and names no core (log entry 13, DEDUCED). -/
def raise (c : Chip) (i d cause : Nat) (left : Option Nat) : Chip :=
  let b := c.basinOfCore i
  let scope := (c.basin b).scope
  let cores := c.ebbScope i cause
  let p : Pend := { core := if cause = 6 then 0x3F else i, cause := cause, left := left }
  let lead := if cause = 6 then cores.headD i else i
  let old := (c.core lead).ebb
  let fresh := (cores.filter fun j => (c.core j).ebb.isNone).map (· / 2)
  let c := fresh.eraseDups.foldl (fun c s => c.event (R.tidEvents s) 5) c
  let c := if (match old with
      | some e => e.pend.any fun q => q.core == p.core && q.cause == p.cause
      | none => false) then c else c.addField (R.tidEbbCause lead cause) 0 32 1
  let newCause := match old with
    | some e => bits e.causes (cause - 1) 1 == 0
    | none => true
  let c := if newCause then c.setAcc b fun a =>
      { a with ebbs := modifyAt a.ebbs (cause - 1) fun x => (satAdd 32 x.1 1, x.2) } else c
  let c := if scope = 2 && cause ≠ 6 && (match old with
      | some e => e.causes % 32 == 0
      | none => true) then c.ebbNotice b 5 else c
  let c := c.timing b 3
  let c := if cause = 6 then c.timing b 4 else c
  cores.foldl (fun c j => c.setCore j fun k =>
    { k with ebb := some (match k.ebb with
        | some e => e.add p
        | none => { causes := 2 ^ (cause - 1), core := p.core, pend := [p], held := 0,
                    start := if cause = 6 then k.cycle + 1 else d }) }) c

/-- One entry of a sett's ebb log (R261, Table 07.17). -/
def logEbb (c : Chip) (s scope : Nat) (e : Ebb) : Chip :=
  let i := c.regField (R.tidEbbPtr s) 32 4
  let c := c.put (R.tidEbbLog s i)
    (packF [(0, 1, 1), (1, 6, e.causes), (7, 2, scope), (9, 6, e.core), (15, 24, satAdd 24 e.held 0), (39, 25, e.start)])
  (c.setField (R.tidEbbPtr s) 32 4 ((i + 1) % 16)).addField (R.tidEbbPtr s) 0 32 1

/-- The cores that the ebb of core `i` holds. -/
def ebbCores (c : Chip) (i : Nat) : List Nat :=
  let b := c.basinOfCore i
  if (c.basin b).scope = 0 then [i] else (c.coresOf b).filter fun j => (c.core j).ebb.isSome

/-- The ebb `e` of a scope is over: every sett with a held core logs it, the pod learns of its end, and the cores pass (R257, R260,
R261). Cores of a basin that is being pre-empted stop there. -/
def endEbb (c : Chip) (b scope : Nat) (cores : List Nat) (e : Ebb) : Chip :=
  let c := ((cores.map (· / 2)).eraseDups).foldl (fun c s =>
    match (cores.find? fun j => j / 2 = s).bind fun j => (c.core j).ebb with
    | some x => c.logEbb s scope x
    | none => c) c
  let c := if scope = 2 && e.causes % 32 ≠ 0 then
      (c.ebbNotice b 6).setBasin b fun x => { x with ebbNotice := (x.ebbNotice + 1) % 256 }
    else c
  (cores.foldl (fun c j => c.setCore j fun k => { k with ebb := none }) c).stopBasin b

/-- The scope of core `i` passes: the edges its causes still hold go by, then the ebb ends. It waits for the end of every cause
and for the adjudications of its boundary (log entry 11, DESIGN CHOICE). -/
def passEbb (c : Chip) (i : Nat) : Chip :=
  match (c.core i).ebb with
  | none => c
  | some e =>
    if !e.known || c.adjDue i e.start then c
    else
      let b := c.basinOfCore i
      (c.passWhole (e.left + if e.left = 0 then 0 else (c.core i).ahead)).endEbb b (c.basin b).scope (c.ebbCores i) e

/-! ### The events that raise a cause -/

/-- A bundle that is not in the queue at its issue cycle (R242). -/
def fetchLateAt (c : Chip) (i edges : Nat) : Chip :=
  let d := c.nextIssue i
  if edges = 0 || (c.core i).phase ≠ .run then c
  else match c.toBoundary i d with
    | some c => c.raise i d 5 (some edges)
    | none => c

/-- The latest MATVEC or BUILD that an engine serves, and whether it is the BUILD's writing engine. -/
def feedOf (c : Chip) (i engine : Nat) : Option (MvuFl × Bool) :=
  ((c.core i).mvus.reverse.find? fun f => f.reader = engine || f.writer = some engine).map fun f => (f, f.writer == some engine)

/-- A requested IN row of unmapped lines alone, which is never late (R217). -/
def unmappedRow (c : Chip) (i : Nat) (f : StrFl) (row : Nat) : Bool :=
  !f.s.out && decide (row < f.requested) && (piecesOf (f.s.farOf row) f.s.bytes).all fun p => (c.farMap (c.basinOfCore i) p.a).isNone

/-- The cycle a stream obligation guards (R128, R212, R214, Table 06.9). An MVU feed's `row` counts headers and slices as they are
taken in: the header of row group g and its Q slices are g(1 + Q) and those after it. -/
def streamDeadline (c : Chip) (i engine obligation row : Nat) : Option Nat :=
  let k := c.core i
  if obligation = 3 then
    match c.feedOf i engine with
    | none => none
    | some (f, collect) =>
      let g := row / (1 + f.m.slices)
      let j := row % (1 + f.m.slices)
      let first := f.t0 + f.m.header g + if j = 0 then 0 else 1 + (j - 1) * f.m.h
      if f.groups ≤ g then none
      else if collect then some ((if j = 0 then f.t0 + f.m.lastIntake g else first) + 16 + 2048 + 1)
      else some first
  else match k.engines[engine]? with
    | none => none
    | some g =>
      if g.rows ≤ row || g.fl.elim false (fun f => f.s.tooWide row || c.unmappedRow i f row) then none
      else
        let q := g.issue + g.base + row * g.step
        if obligation = 0 && g.dir = 0 then some (q + 1 - g.width)
        else if obligation = 1 && g.dir = 1 then some q
        else if obligation = 2 && g.dir = 1 then some (q + g.post + 1)
        else none

/-- What STR_LATE_REC gives for the row: of a feed, the slices before (Table 06.19). -/
def lateRow (c : Chip) (i engine obligation row : Nat) : Nat :=
  match (if obligation = 3 then c.feedOf i engine else none) with
  | none => row
  | some (f, _) => row / (1 + f.m.slices) * f.m.slices + (row % (1 + f.m.slices) - 1)

/-- STR_EVENTS, STR_LATE_REC and STR_LATE_COUNT of a late obligation, once for the obligations of one ebb of its core; the edges are
counted as they are held (Table 06.18, Table 06.19, Table 06.21). -/
def recordLate (c : Chip) (i engine obligation row d : Nat) : Chip :=
  let c := if obligation = 2 then c.setCore i fun k => { k with lateRow := some (engine, row) } else c
  if ((c.core i).ebb.elim [] Ebb.pend).any fun p => p.core = i && p.cause = 1 then c
  else
    let c := c.event (R.strEvents i) 0
    let c := c.latch (R.strLateRec i) (packF [(0, 1, 1), (1, 2, engine), (3, 2, obligation), (5, 24, c.lateRow i engine obligation row), (29, 35, d)])
    c.addField (R.strLateCount i) 0 32 1

/-- A stream or feed obligation is late (R214, R215). -/
def streamLateAt (c : Chip) (i engine obligation row edges : Nat) : Chip :=
  match c.streamDeadline i engine obligation row with
  | none => c
  | some d =>
    if edges = 0 then c
    else match c.toBoundary i d with
      | none => c
      | some c => (c.recordLate i engine obligation row d).raise i d 1 (some edges)

/-- A scan not finished by its last cycle (R226). -/
def chkLateAt (c : Chip) (i edges : Nat) : Chip :=
  match (c.core i).chkBusyTo with
  | none => c
  | some t =>
    if edges = 0 then c
    else match c.toBoundary i (t + 1) with
      | some c => (c.event (R.chkEvents i) 1).raise i (t + 1) 2 (some edges)
      | none => c

/-- A collective whose obligation is unmet at the end of its deadline (R337). -/
def fabricLateAt (c : Chip) (i edges : Nat) : Chip :=
  let b := c.basinOfCore i
  match (c.basin b).colls.find? fun k => k.core = i && !c.collMet b k && c.reaches i (k.deadline + 1) with
  | some k => if edges = 0 then c else match c.toBoundary i (k.deadline + 1) with
    | some c => c.raise i (k.deadline + 1) 4 (some edges)
    | none => c
  | none => c

/-- What FABRIC_LATE a core of a basin held ends (R339). -/
def endLate (c : Chip) (b i : Nat) : Chip :=
  (c.coresOf b).foldl (fun c j => c.setCore j fun k =>
    { k with ebb := k.ebb.map fun e => { e with pend := e.pend.map fun p =>
        if p.core = i && p.cause = 4 then { p with left := some 0 } else p } }) c

/-- The oldest failed block of a core is adjudicated: its 1,024 edges of ebb begin, after those of earlier ones (R105 to R109). -/
def adjudicateAt (c : Chip) (i : Nat) : Chip :=
  let k := c.core i
  match k.adj with
  | [] => c
  | a :: rest =>
    let at' : Option (Chip × Nat) := match k.ebb with
      | some e => if a.bound ≤ e.start then some (c, e.start) else none
      | none => (c.toBoundary i a.bound).map fun c => (c, a.bound)
    match at' with
    | none => c
    | some (c, d) => (c.raise i d 3 (some 1024)).setCore i fun k => { k with adj := rest, adjRun := k.adjRun ++ [(a, 0)] }

end Chip
end Sys2Proof.Machine
end

