-- ==== Sys2Proof/Machine/Issue.lean ====
section
/-! DEFINITION. Bundle issue (R242 to R249), the loop stack (R247), and holds at barriers, gates and ticks (R266 to R271). -/

namespace Sys2Proof.Machine

/-- Whether two holds are at the same point of the schedule, as far as R266, R269 and R270 demand it. -/
def sameHold (scope : Nat) (a b : HoldKind) : Bool :=
  match a, b with
  | .barrier i _, .barrier j _ => i == j
  | .gate, .gate => true
  | .tide s, .tide t => scope == 0 || s == t
  | .tide _, _ => scope == 0
  | _, .tide _ => scope == 0
  | _, _ => false

/-- Whether every core of the basin must hold where one does: not at a core's own TIDE_WAIT (R266, R269, R270). -/
def basinHold (scope : Nat) : HoldKind → Bool
  | .tide _ => scope != 0
  | _ => true

namespace Chip

/-- A schedule error of a control slot (R246) (log entry 15, DEDUCED). -/
def controlErr (c : Chip) (i : Nat) : Chip := (c.event (R.tidEvents (i / 2)) 0).auditTrap i 0x0B 0

/-- The core issues no further bundle (R246). -/
def endCore (c : Chip) (i : Nat) : Chip :=
  let b := c.basinOfCore i
  let c := c.setCore i fun k => { k with phase := .ended, endCycle := some k.cycle, waitLeft := 0, hold := none }
  if (c.coresOf b).any fun j => j != i && (match (c.core j).hold with
      | some h => basinHold (c.basin b).scope h.kind
      | none => false)
  then c.auditTrap i 0x0C 0 else c

/-- A core begins to hold (R266, R269, R270); a hold of the basin that has timed out has done so for every core of it (R268). -/
def startHold (c : Chip) (i : Nat) (kind : HoldKind) : Chip :=
  let b := c.basinOfCore i
  let scope := (c.basin b).scope
  let clash := (c.coresOf b).any fun j => j != i &&
    ((match (c.core j).hold with
      | some h => !sameHold scope kind h.kind
      | none => false) ||
     ((c.core j).phase == .ended && basinHold scope kind))
  let timed := basinHold scope kind && (c.coresOf b).any fun j => match (c.core j).hold with
    | some h => sameHold 1 kind h.kind && h.timedOut
    | none => false
  let c := c.setCore i fun k =>
    { k with hold := some { kind := kind, start := c.tide, edges := 0, barOver := false, timedOut := timed } }
  if clash then c.auditTrap i 0x0C 0 else c

/-- Cores of a basin that hold at a barrier. -/
def atBarrier (c : Chip) (b id : Nat) : List Nat :=
  (c.coresOf b).filter fun j => match (c.core j).hold with
    | some h => (match h.kind with
      | .barrier x _ => x == id
      | _ => false)
    | none => false

/-- Whether a barrier id is the basin barrier or a pod barrier that BARRIER_CONFIG set (R266, R343). -/
def barrierKnown (c : Chip) (b id : Nat) : Bool := id = 0 || c.regField (R.redBar (c.redAt b) id) 4 1 == 1

/-- BARRIER: the core arrives (R266, R267; Table 07.21). -/
def arrive (c : Chip) (i id budget : Nat) : Chip :=
  let b := c.basinOfCore i
  let first := (c.atBarrier b id).isEmpty
  let c := c.startHold i (.barrier id budget)
  let n := (c.atBarrier b id).length
  let r := R.tidBarrier b
  let c := if first then c.put r (packF [(0, 6, id), (6, 1, 1), (8, 6, 0), (16, 48, c.tide)]) else c
  let c := c.setField r 8 6 n
  if n = c.coreCount then c.basinArrives b id else c

/-- TIDE_WAIT (R270). -/
def tideWait (c : Chip) (i offset : Nat) : Chip :=
  let b := c.basinOfCore i
  let t := (c.basin b).t + offset
  if t ≤ c.tide then (c.event (R.tidEvents (i / 2)) 2).timing b 6 else c.startHold i (.tide t)

/-- GATE_WAIT (R269, R356). -/
def gateWait (c : Chip) (i : Nat) : Chip :=
  if c.gateOpen (c.basinOfCore i) then c.controlErr i else c.startHold i .gate

/-- A core's next bundle, and its wait, once the bundle at index `x` has issued (R245, R247). -/
def nextBundle (c : Chip) (i x wait : Nat) (ls : List Loop) : Chip :=
  let r := loopNext ls x
  c.setCore i fun k => { k with bundle := r.1, loops := r.2, waitLeft := wait }

/-- The control slot of a bundle at index `x` that issues in cycle `t` (R245 to R247). -/
def controlSlot (c : Chip) (i x t : Nat) (w : Bundle) : Chip :=
  let wait := bits w 0 16
  let cop := bits w 16 4
  let loose := bits w 20 1 == 1
  let ls := (c.core i).loops
  let mark (c : Chip) : Chip := c.markLoose i loose
  if cop = 6 then (mark c).endCore i
  else if cop = 1 then
    (if loopFits ls x (bits w 48 16) then mark c else c.controlErr i).nextBundle i x wait (loopEnter ls x w)
  else
    let c := if cop = 0 then mark c
      else if cop = 2 then
        let id := bits w 24 6
        if c.barrierKnown (c.basinOfCore i) id then (mark c).arrive i id (bits w 32 32) else c.controlErr i
      else if cop = 3 then (if c.gateOpen (c.basinOfCore i) then c else mark c).gateWait i
      else if cop = 4 then c.fabricIssue i (bits w 24 20) loose t
      else if cop = 5 then (mark c).tideWait i (bits w 24 48)
      else c.controlErr i
    c.nextBundle i x wait ls

/-- Array slot 0 and its berths (Table 07.3, R92). -/
def arraySlot (c : Chip) (i t : Nat) (w : Bundle) : Chip :=
  if bits w 128 1 = 0 then c
  else if c.passBusy i t then c.schedErr i (R.arrEvents i) 5 1
  else
    let idx (a : Nat) : Nat := if a = 0 then bits w 150 20 else bits w (192 + 32 * (a - 1)) 20
    (c.markLoose i (bits w 129 1 == 1)).passIssue i t (bits w 130 20) idx

/-- The stream slot `n` (Table 07.3); a lower slot of the bundle that names its engine wins (R244). -/
def streamSlot (c : Chip) (i t : Nat) (w : Bundle) (n : Nat) : Chip :=
  let at' (m : Nat) : Nat := 352 + 32 * m
  let e := bits w (at' n + 2) 2
  if bits w (at' n) 1 = 0 then c
  else if (List.range n).any fun m => bits w (at' m) 1 = 1 && bits w (at' m + 2) 2 = e then
    c.schedErr i (R.strEvents i) 1 (7 + n)
  else c.streamIssue i n e (bits w (at' n + 4) 20) (bits w (at' n + 1) 1 == 1) t

/-- Every slot of a bundle but the control slot, in cycle `t` (R243, R244). -/
def unitSlots (c : Chip) (i t : Nat) (w : Bundle) : Chip :=
  let c := c.arraySlot i t w
  let c := c.mvuIssue i (bits w 288 2) (bits w 291 20) (bits w 290 1 == 1) t
  let c := if bits w 320 1 = 1 then c.vecIssue i (bits w 322 20) (bits w 321 1 == 1) t else c
  let c := foldN 4 (fun c n => c.streamSlot i t w n) c
  if bits w 480 1 = 1 then c.checkIssue i (bits w 482 20) (bits w 481 1 == 1) t else c

/-- A bundle issues in the core's present cycle (R242 to R248): past the last bundle, and at a poisoned one, the core ends (log
entry 16, DEDUCED). -/
def issueNow (c : Chip) (i : Nat) : Chip :=
  let k := c.core i
  let x := k.bundle
  if k.bundles ≤ x then (c.controlErr i).endCore i
  else
    let r := c.takeBundle i x
    match r.2 with
    | none => (r.1.report i 0 0xC (c.toBasin (c.basinOfCore i) (k.streamAddr + 64 * x))).endCore i
    | some w => ((r.1.unitSlots i k.cycle w).controlSlot i x k.cycle w).leaveQueue i x

/-- Let a gate that has opened come into force for a core that holds at it (R356). -/
def enterGate (c : Chip) (i : Nat) : Chip :=
  match (c.core i).hold, (c.basin (c.basinOfCore i)).openAt with
  | some { kind := .gate, .. }, some t => if c.tide < t then c.passTo t else c.passGates
  | _, _ => c

/-- Whether a core may issue its next bundle: it runs, no ebb or hold stops it, no failed block waits for its adjudication, no
PREEMPT or fault has stopped issue (R244, R271, R272, R368). -/
def mayIssue (c : Chip) (i : Nat) : Bool :=
  let k := c.core i
  let b := c.basin (c.basinOfCore i)
  decide (i < 40) && !c.clk.stopped && b.running && b.live && !b.preempting && k.phase == .run && k.ebb.isNone && k.hold.isNone &&
    !c.adjDue i (c.nextIssue i)

/-- The next bundle of a core issues: time passes to the tick that carries its issue edge, and the core enters the issue cycle
(log entry 11, DESIGN CHOICE). -/
def bundleAt (c : Chip) (i : Nat) : Chip :=
  let c := c.enterGate i
  if !c.mayIssue i then c
  else
    let k := c.core i
    let c := passEdges 1000 c (c.edgesFor i (k.waitLeft + 1) + k.ahead)
    if !c.mayIssue i || (c.core i).waitLeft ≠ 0 then c else (c.takeEdge i).oneCycle i fun c => c.issueNow i

/-! ### The ends of holds -/

/-- Every core of a basin that holds at a barrier passes it (R267). -/
def passBarrier (c : Chip) (b : Nat) : Chip :=
  let c := (c.coresOf b).foldl (fun c i => c.setCore i fun k => match k.hold with
    | some { kind := .barrier _ _, .. } => { k with hold := none }
    | _ => k) c
  (c.setField (R.tidBarrier b) 6 1 0).setBasin b fun x => { x with barRelease := none }

/-- A barrier releases at its tick (R267). -/
def releaseBarrier (c : Chip) (b : Nat) : Chip :=
  match (c.basin b).barRelease with
  | none => c
  | some t => (c.passTo t).passBarrier b

/-- A TIDE_WAIT to tick `t` ends: its core, or every core of its basin, passes (R270). -/
def passTide (c : Chip) (i t : Nat) : Chip :=
  let b := c.basinOfCore i
  let cores := if (c.basin b).scope = 0 then [i] else c.coresOf b
  cores.foldl (fun c j => c.setCore j fun k => if k.hold.map Hold.kind = some (.tide t) then { k with hold := none } else k) c

/-- The tick of a TIDE_WAIT comes (R270). -/
def releaseTide (c : Chip) (i : Nat) : Chip :=
  match (c.core i).hold with
  | some { kind := .tide t, .. } => (c.passTo t).passTide i t
  | _ => c

/-- The first tick of the hold that a core is in (R268). -/
def holdStart (c : Chip) (i : Nat) (h : Hold) : Nat :=
  let b := c.basinOfCore i
  if !basinHold (c.basin b).scope h.kind then h.start
  else (c.coresOf b).foldl (fun t j => match (c.core j).hold with
    | some x => if sameHold 1 h.kind x.kind then min t x.start else t
    | none => t) h.start

/-- A hold has timed out: recorded once, for every core that holds with core `i` (R268). -/
def markTimeout (c : Chip) (i : Nat) (kind : HoldKind) : Chip :=
  let b := c.basinOfCore i
  let cores := if basinHold (c.basin b).scope kind then c.coresOf b else [i]
  let c := cores.foldl (fun c j => c.setCore j fun k =>
    { k with hold := k.hold.map fun x => if sameHold 1 kind x.kind then { x with timedOut := true } else x }) c
  if (c.core i).hold.isSome then (c.event R.tidPkgEvents 2).tellTide else c

/-- A hold lasts longer than TID_BARRIER_TIMEOUT (R268). -/
def holdTimeout (c : Chip) (i : Nat) : Chip :=
  let us := c.regField R.tidBarrierTimeout 0 32
  match (c.core i).hold with
  | none => c
  | some h =>
    if us = 0 || h.timedOut then c
    else
      (c.passTo (c.holdStart i h + 1000 * us + 1)).markTimeout i h.kind

/-- A barrier hold that began at tick `s` has lasted longer than its budget: recorded once (R268). -/
def markOver (c : Chip) (i id s budget : Nat) (o : Bool) : Chip :=
  match (c.core i).hold with
  | some { kind := .barrier id' b', start := s', edges := e', .. } =>
    if id' ≠ id || s' ≠ s || e' ≤ budget then c
    else
      let c := c.setCore i fun k =>
        { k with hold := some { kind := .barrier id' b', start := s', edges := e', barOver := true, timedOut := o } }
      (c.event (R.tidEvents (i / 2)) 3).timing (c.basinOfCore i) 5
  | _ => c

/-- A barrier hold lasts longer than its budget in edges (R268). -/
def holdOver (c : Chip) (i : Nat) : Chip :=
  match (c.core i).hold with
  | some { kind := .barrier id budget, start := s, edges := e, barOver := false, timedOut := o } =>
    let n := budget + 1 - e
    (c.passWhole (n + if n = 0 then 0 else (c.core i).ahead)).markOver i id s budget o
  | _ => c

end Chip
end Sys2Proof.Machine
end

