-- ==== Sys2Proof/Machine/Steps.lean ====
section
/-! DEFINITION. The course of a step: launch (R263, R265), the end of a launch (R248, R291, R354), the gate conditions and their
evaluation (R354 to R358), the step decision and its Dvor record (R281, R289, R290). -/

namespace Sys2Proof.Machine

/-- The largest FP32 value, a not-a-number first (R175). -/
def topLoss (a b : F32) : F32 := if (decF32 a).isNan || (decF32 b).isNan then nanF32 else f32Max a b

namespace Chip

/-- Opcodes of the commands that reply at a later event (Table 11.7). -/
def opLaunch : Nat := 0x0303
def opCommit : Nat := 0x0304
def opPreempt : Nat := 0x0306

/-- The thermal class (Table 13.8). -/
def thermalClass (c : Chip) : Nat :=
  if c.regField R.pwrStatus 51 1 = 1 then 2
  else if (List.range 20).any fun s => c.regField (R.memStatus s) 0 1 = 1 then 1 else 0

/-! ### Launch -/

/-- A core between the acceptance of a launch and its launch edge: its fetcher stands at the start of the new stream (R242), and what
else it shows is the last launch's. -/
def fetchFrom (k : Core) (stream : Nat × Nat) : Core :=
  { k with streamAddr := stream.1, bundles := stream.2, queue := [], fetch := 0, fetchLoops := [], fetchAhead := 0, fetchEnd := false }

/-- A core in its launch edge, before bundle 0 issues (R147, R263, R265, Table 14.7): cycle 0, with what its fetcher holds (log entry
12, DEDUCED). -/
def launchCore (k : Core) : Core :=
  { Core.reset with phase := .run, ahead := k.ahead, streamAddr := k.streamAddr, bundles := k.bundles, queue := k.queue,
                    fetch := k.fetch, fetchLoops := k.fetchLoops, fetchAhead := k.fetchAhead, fetchEnd := k.fetchEnd,
                    passV := k.passV, passSplit := k.passSplit, passEn := k.passEn, mvuActive := k.mvuActive,
                    engines := k.engines.map fun g => { g with seq := 0, busyTo := none, heldTo := none, fl := none } }

/-- The registers of a core that a launch clears (Table 14.7). -/
def clearCoreRegs (c : Chip) (i : Nat) : Chip :=
  let c := foldN 7 (fun c n => c.put (R.vecNfStep i (n + 1)) 0) c
  let c := (c.put (R.vecGbound i) 0).put (R.vecSpike i) 0
  let c := ((c.setField (R.arrPassStatus i) 0 28 0).setField (R.mvuOpStatus i) 0 24 0).setField (R.vecOpStatus i) 0 24 0
  (c.put (R.rngDraws i) 0).setField (R.chkStatus i) 8 24 0

/-- The registers of a sett that a launch clears. -/
def clearSettRegs (c : Chip) (s : Nat) : Chip := (c.put (R.intStatus s) 0).setField (R.intNfFirst s) 0 1 0

/-- What a step's record takes from its first launch that begins (R290, R462). -/
def sampleStep (c : Chip) (b : Nat) : Chip :=
  if (c.basin b).acc.sampled then c
  else
    let t := c.thermalClass
    c.setAcc b fun a => { a with opPoint := c.op, thermal := t, cap := c.regField R.pwrCap 0 16, sampled := true }

/-- The step opens at its first launch (R281, R287): launch index, launch count. -/
def openStep (c : Chip) (b : Nat) : Chip :=
  let x := c.basin b
  let st := R.seqStepStatus b
  let first := !c.undecided b
  let idx := if first then 0 else (c.regField (R.rngIdent (c.firstSett b)) 8 8 + 1) % 256
  let c := (c.settsOf b).foldl (fun c s => c.setField (R.rngIdent s) 8 8 idx) c
  let c := (c.setField st 8 1 1).addField st 0 8 1
  c.setAcc b fun a =>
    if first then { StepAcc.reset with replica := a.replica, firstTick := x.t, minLevel := c.level }
    else { a with minLevel := min a.minLevel c.level }

/-- The bundle streams of the schedule a basin is bound to, by basin core. -/
def boundStreams (c : Chip) (b : Nat) : List (Nat × Nat) :=
  match c.prog (c.regField (R.seqBind b) 0 3) with
  | some p => match p.scheds.find? fun s => s.cores = c.coreCount with
    | some s => s.streams.map fun x => ((c.relocate b x.1).getD 0, x.2.1)
    | none => []
  | none => []

/-- A launch is accepted: its step opens, its cores begin to fetch, and the basin waits for the launch edge (R242, R265, R287, R396;
log entry 33, DESIGN CHOICE). -/
def acceptLaunch (c : Chip) (b t : Nat) : Chip :=
  let c := c.setBasin b fun x =>
    { x with running := true, live := false, t := t, launchNo := x.launchNo + 1, preempting := false, trapped := false, discarding := false,
             openAt := none }
  let c := ((c.openStep b).setField (R.seqGate b) 0 1 0).meshCores b
  ((c.coresOf b).zip (c.boundStreams b)).foldl (fun c e => c.setCore e.1 fun k => fetchFrom k e.2) c

/-- The registers of a basin that a launch clears (R265, R358, Table 14.7). -/
def clearLaunchRegs (c : Chip) (b : Nat) : Chip :=
  let c := (c.setField (R.seqGate b) 6 1 0).put (R.tidBasinTiming b) 0
  let c := (c.settsOf b).foldl clearSettRegs ((c.coresOf b).foldl clearCoreRegs c)
  let r := c.redAt b
  let c := (c.setField (R.redStatus r) 8 24 0).setField (R.redStatus r) 32 32 0
  (List.range 63).foldl (fun c i => c.setField (R.redBar r (i + 1)) 56 8 0) c

/-- Whether a message that came before its collective was posted may belong to the present launch: a GRANT, which carries no epoch,
comes of none before the launch edge (R325) (log entry 24, DEDUCED). -/
def keepsEarly (c : Chip) (b : Nat) (m : LinkMsg) : Bool :=
  m.kind != 4 && (CargoHdr.parse m.cargo).epoch == c.epochOf b

/-- What a launch clears beside registers: vector registers (R147), window lines in the harbour dies (R221), counts of collectives,
arrivals and messages of an earlier launch (R325, R342). -/
def clearLaunch (c : Chip) (b : Nat) : Chip :=
  let c := { c with vregs := c.vregs.filter (fun e => !(c.coresOf b).contains (e.1 / 16384)),
                    vrErr := c.vrErr.filter fun e => !(c.coresOf b).contains (e.1 / 8192) }
  let c := c.dropLines fun l => isWindow l.line && (c.harboursOf b).contains l.die
  c.setBasin b fun x => { x with live := true, remotes := [], posts := [], posted := 0, barRelease := none, arrivals := [],
                                 early := x.early.filter (c.keepsEarly b) }

/-- A basin in its launch edge, before bundle 0: what a launch clears is cleared and every core is in cycle 0 (Table 14.7). -/
def atCycle0 (c : Chip) (b : Nat) : Chip :=
  let c := ((c.sampleStep b).clearLaunchRegs b).clearLaunch b
  let c := (c.settsOf b).foldl (fun c s => c.setWin s fun w => { w with phaseAt := 0 }) c
  (c.coresOf b).foldl (fun c i => c.setCore i launchCore) c

/-- The launch edge: every core enters cycle 0, and its bundle 0 issues (R263, R265). -/
def launchNow (c : Chip) (b : Nat) : Chip :=
  (c.coresOf b).foldl (fun c i => (c.takeEdge i).thisCycle i fun c => c.issueNow i) (c.atCycle0 b)

/-- LAUNCH: at the first edge at or after its tick, for a basin whose launch was accepted (R263). -/
def launchAt (c : Chip) (b : Nat) : Chip :=
  let x := c.basin b
  if !(decide (b < c.basinCount) && x.running && !x.live && !x.preempting && !c.clk.stopped) then c
  else (passEdges 1000 (c.passTo x.t) 1).launchNow b

/-! ### Gate conditions (R354) -/

/-- Non-finite charges of a cause in the launch, over the basin's cores. -/
def launchNf (c : Chip) (b cause : Nat) : Nat := sumN ((c.coresOf b).map fun i => c.regField (R.vecNfStep i cause) 0 32)

/-- The four conditions of Table 10.5 over the step so far: nf_zero, spike_clear, bound_passed, poison_free. Until a launch of the
step has begun, the registers still show an earlier step's. -/
def gateConds (c : Chip) (b : Nat) : List Bool :=
  let a := (c.basin b).acc
  let now (ok : Bool) : Bool := !a.sampled || ok
  [a.nf.all (· == 0) && now ((List.range 7).all fun n => c.launchNf b (n + 1) == 0),
   !a.spike && now ((c.coresOf b).all fun i => c.regField (R.vecSpike i) 1 1 == 0),
   !a.boundBad && now ((c.coresOf b).all fun i => c.regField (R.vecGbound i) 16 2 == 0),
   !a.poison && now ((c.settsOf b).all fun s => c.regField (R.intStatus s) 0 1 == 0 && c.regField (R.intStatus s) 3 1 == 0)]

/-- Conditions as a field of bits, from bit 0. -/
def condBits (l : List Bool) : Nat := sumN ((l.zip (List.range l.length)).map fun x => x.1.toNat * 2 ^ x.2)

/-! ### The end of a launch -/

/-- What the launch adds to the step (R290, R291): nothing where a PREEMPT came before its first cycle. -/
def gather (c : Chip) (b : Nat) : Chip :=
  if !(c.basin b).live then c else
  let is := c.coresOf b
  let feeds (i : Nat) : Nat := c.regField (R.vecSpike i) 16 16
  let fed := is.filter fun i => feeds i ≠ 0
  let last := fed.foldl (fun (m : Nat × Nat) i =>
    let t := (c.core i).feedCycle.getD 0
    if m.1 ≤ t then (t, c.regField (R.vecSpike i) 32 32) else m) (0, 0)
  let conds := c.gateConds b
  let nf := tabulate 7 fun n => c.launchNf b (n + 1)
  c.setAcc b fun a =>
    { a with cycles := (a.cycles + (is.map c.shownCycle).foldl max 0) % 2 ^ 64,
             nf := (a.nf.zip nf).map fun x => satAdd 32 x.1 x.2,
             sat := satAdd 32 a.sat (sumN (is.map fun i => (c.core i).sat)),
             empty := satAdd 32 a.empty (sumN (is.map fun i => (c.core i).empty)),
             feeds := satAdd 32 a.feeds (sumN (is.map feeds)),
             lastLoss := if fed.isEmpty then a.lastLoss else last.2,
             gmax := (is.foldl (fun m i => topLoss m (BitVec.ofNat 32 (c.regField (R.vecGbound i) 32 32)))
               (BitVec.ofNat 32 a.gmax)).toNat,
             spike := !conds.getD 1 true, boundBad := !conds.getD 2 true, poison := !conds.getD 3 true }

/-- Show the accumulated conditions in SEQ_GATE_b while the gate is closed (log entry 20, DEDUCED). -/
def showConds (c : Chip) (b : Nat) : Chip :=
  if c.gateOpen b then c else c.setField (R.seqGate b) 2 4 (condBits (c.gateConds b))

/-! ### The step decision -/

/-- Bytes at an offset of a record. -/
def place (l : List Byte) (off : Nat) (x : List Byte) : List Byte := l.take off ++ x ++ l.drop (off + x.length)

/-- Distinct package coordinates among the valid entries of a basin's rank map (R290). -/
def packagesOf (c : Chip) (b : Nat) : Nat :=
  (((List.range 256).filterMap fun r => (c.rankPlace b r).map fun p => (p.1, p.2.1, p.2.2.1)).eraseDups).length

/-- cargo_fold (R291): the CRC of the delivered cargos' CRC fields, in collective issue order, then cargo order. -/
def cargoFold (l : List (Nat × Nat × Nat)) : Nat :=
  if l.isEmpty then 0
  else
    let le (x y : Nat × Nat × Nat) : Bool := x.1 < y.1 || (x.1 == y.1 && x.2.1 ≤ y.2.1)
    crc64 ((l.mergeSort le).flatMap fun x => toLE 8 x.2.2)

/-- Bytes 0x000 to 0x19F of a Dvor record (Table 08.4, Table 08.5). -/
def dvorHead (c : Chip) (b step : Nat) (committed : Bool) : List Byte :=
  let a := (c.basin b).acc
  let st := c.reg (R.seqStepStatus b)
  let timing := c.reg (R.tidBasinTiming b)
  let flags := committed.toNat + (!committed).toNat * 2 + fget st 9 1 * 4 + fget st 10 1 * 8 + fget st 11 1 * 16 +
    (c.audited b).toNat * 32 + fget timing 0 1 * 64 + a.timeout.toNat * 128
  let gate := if committed then a.gateBits else condBits (c.gateConds b) * 2
  let slot := c.regField (R.seqBind b) 0 3
  let fields : List (Nat × Nat × Nat) :=
    [(0x000, 4, 0x524F5644), (0x004, 1, 1), (0x005, 1, 1), (0x006, 2, flags), (0x008, 8, step),
     (0x010, 16, c.seedOf (c.firstSett b)), (0x020, 8, (c.reg (R.seqProgHash slot)).toNat), (0x028, 1, (c.basin b).contract),
     (0x029, 1, c.packagesOf b), (0x02A, 1, c.basinCount), (0x02B, 1, c.coreCount),
     (0x02C, 1, c.regField (R.rngIdent (c.firstSett b)) 0 8), (0x02D, 1, fget st 0 8), (0x030, 8, a.firstTick),
     (0x038, 8, a.cycles), (0x040, 8, c.tide - a.firstTick), (0x048, 1, a.opPoint), (0x049, 1, a.thermal),
     (0x04A, 1, a.minLevel), (0x04B, 1, (c.die 0).stepping), (0x04C, 2, a.cap), (0x04E, 1, b), (0x04F, 1, c.firstRow b),
     (0x050, 16, fromLE c.fuses.serial), (0x120, 4, a.sat), (0x124, 4, a.empty), (0x128, 4, gate), (0x12C, 4, a.gmax),
     (0x130, 4, a.lastLoss), (0x134, 4, a.feeds), (0x138, 8, timing.toNat), (0x170, 8, a.ebbEdges), (0x178, 8, a.holdEdges),
     (0x180, 4, a.colls), (0x184, 4, a.cargos), (0x188, 8, cargoFold a.crcs)]
  let rep : List (Nat × Nat × Nat) := match a.replica with
    | some (d, r) => [(0x190, 8, d), (0x198, 4, r), (0x19C, 4, 1)]
    | none => []
  let nf : List (Nat × Nat × Nat) := tabulate 7 fun n => (0x100 + 4 * n, 4, a.nf.getD n 0)
  let ebbs : List (Nat × Nat × Nat) := (List.range 6).flatMap fun n =>
    [(0x140 + 8 * n, 4, (a.ebbs.getD n (0, 0)).1), (0x144 + 8 * n, 4, (a.ebbs.getD n (0, 0)).2)]
  (fields ++ rep ++ nf ++ ebbs).foldl (fun l f => place l f.1 (toLE f.2.1 f.2.2)) (List.replicate 0x400 0)

/-- The 4 KiB Dvor record (R290, R293): the packing record is copied as it reads. -/
def dvorRecord (c : Chip) (b step : Nat) (committed : Bool) : List PByte :=
  let pack := match c.relocate b (c.regField (R.seqPackAddr b) 0 48) with
    | some d => c.peek d 1024
    | none => List.replicate 1024 (some 0)
  let l := clean (c.dvorHead b step committed) ++ pack ++ clean (List.replicate 0x7F8 0)
  l ++ clean (toLE 8 (crc64 (plain l)))

/-- Write the record to the ring's next slot (R289). -/
def writeDvor (c : Chip) (b step : Nat) (committed : Bool) : Chip :=
  let r := R.seqDvorRing b
  let slots := c.regField r 0 16
  if slots = 0 then c
  else
    let next := c.regField r 16 16 % slots
    let c := match c.relocate b (c.regField (R.seqDvorBase b) 0 48 + 4096 * next) with
      | some d => c.poke d (c.dvorRecord b step committed)
      | none => c
    (c.setField r 16 16 ((next + 1) % slots)).addField r 32 32 1

/-- A step decision (R281, R289, R357, R359): the counter, the record, then everything of the step clears
(log entry 20, DEDUCED). -/
def decide' (c : Chip) (b : Nat) (committed : Bool) : Chip :=
  let step := (c.reg (R.seqStep b)).toNat
  let c := if committed then (c.put (R.seqStep b) (BitVec.ofNat 64 (step + 1))).setField (R.seqGate b) 0 1 0 else c
  let c := c.writeDvor b step committed
  let c := c.put (R.seqStepStatus b) 0
  let c := (c.settsOf b).foldl (fun c s => c.setField (R.rngIdent s) 8 8 0) c
  let g := R.seqGate b
  let c := (((c.setField g 0 1 0).setField g 1 1 0).setField g 2 4 0xF).setField g 7 1 0
  c.setBasin b fun x => { x with acc := StepAcc.reset, openAt := none, discarding := false }

/-- The body of a STEP_COMMIT reply: the Dvor gate field (Table 11.7). -/
def commitBody (conds : List Bool) (opened : Bool) : List Byte := toLE 4 (opened.toNat + condBits conds * 2) ++ toLE 4 0

/-- The evaluation of a STEP_COMMIT (R354 to R357, Table 10.6): status, body, and the chip after it. -/
def evaluate (c : Chip) (b : Nat) : Chip × Status × List Byte :=
  let conds := c.gateConds b
  let g := R.seqGate b
  let c := (c.setField g 2 4 (condBits conds)).setField g 1 1 0
  if conds.all id then
    let c := (c.setField g 0 1 1).setAcc b fun a => { a with gateBits := 1 + condBits conds * 2 }
    let c := if c.running b then c.setBasin b fun x => { x with openAt := some (c.tide + 32) } else c.decide' b true
    (c, .ok, commitBody conds true)
  else
    let c := c.addField g 16 32 1
    (c.tell 0x19 36 0x19 b (c.reg g), .hold, commitBody conds false)

/-- Every core of a basin holds at GATE_WAIT or has ended (R355). -/
def allHeld (c : Chip) (b : Nat) : Bool :=
  (c.coresOf b).all fun i =>
    let k := c.core i
    k.phase == .ended || k.hold.map Hold.kind == some .gate

/-- Every write of the launch is ordered: every row of an OUT stream has left, nothing waits for an adjudication, a host read or a
collective (R248, R355) (log entry 20, DEDUCED). -/
def allOrdered (c : Chip) (b : Nat) : Bool :=
  ((c.coresOf b).all fun i => (c.core i).adj.isEmpty && (c.core i).engines.all fun g => match g.fl with
      | some f => !f.s.out || f.moved == f.s.rows
      | none => true) && (c.basin b).colls.all (c.collMet b) &&
    (c.quay.hreads.all fun r => r.basin ≠ b || r.near.all (· == 0)) && !c.writesWait b

/-- The pending STEP_COMMIT of a basin evaluates (R355, R356). -/
def gateEvaluationAt (c : Chip) (b : Nat) : Chip :=
  if !(decide (b < c.basinCount) && c.gatePending b && c.running b && (c.basin b).live && !(c.basin b).preempting &&
      c.allHeld b && c.allOrdered b) then c
  else if c.regField (R.seqStepStatus b) 11 1 = 1 then (c.setField (R.seqGate b) 1 1 0).finish opCommit b .notInState []
  else
    let r := c.evaluate b
    r.1.finish opCommit b r.2.1 r.2.2

/-- The basin leaves RUN: the launch's values are gathered, LAUNCH_AT_TIDE and PREEMPT reply, and a decided step completes
(R248, R272, R357, R359). -/
def leaveRun (c : Chip) (b : Nat) (outcome : Nat) : Chip :=
  let cycles := if (c.basin b).live then ((c.coresOf b).map c.shownCycle).foldl max 0 else 0
  let c := ((c.gather b).showConds b).setBasin b fun x => { x with running := false, live := false, preempting := false }
  let waits := c.gatePending b
  let drop := (c.basin b).discarding && c.undecided b
  let c := if c.gateOpen b then c.decide' b true else if drop then c.decide' b false else c
  let c := if waits then
      if outcome = 1 || drop then (c.setField (R.seqGate b) 1 1 0).finish opCommit b .notInState []
      else
        let r := c.evaluate b
        r.1.finish opCommit b r.2.1 r.2.2
    else c
  let c := c.finish opLaunch b .ok (toLE 8 cycles ++ toLE 8 outcome)
  c.finish opPreempt b .ok []

/-- Whether every unit of every core of a basin is in or past its last cycle. -/
def allLast (c : Chip) (b : Nat) : Bool := (c.coresOf b).all fun i => (c.core i).ebb.isNone && c.lastCycle i ≤ (c.core i).cycle

/-- Let time pass until every core of a basin, none of which issues any more, is in its units' last cycle as it is now known. -/
def passOnce (c : Chip) (b : Nat) : Chip :=
  let left (c : Chip) (i : Nat) : Nat := c.lastCycle i - (c.core i).cycle
  let edges (i : Nat) : Nat := if left c i = 0 then 0 else c.edgesFor i (left c i) + (c.core i).ahead
  let n := ((c.coresOf b).map edges).foldl max 0
  if n = 0 then c
  else (c.coresOf b).foldl (fun c i => if left c i = 1 then (c.takeEdge i).oneCycle i id else c) (passEdges 1000 c n)

/-- The same until it is known: an operation of the vector engine shows its last cycle once its descriptor is read. -/
def passLast (c : Chip) (b : Nat) : Chip :=
  let c := (c.passOnce b).passOnce b
  (c.coresOf b).foldl scanOver c

/-- The schedule of a basin is complete (R248). -/
def scheduleCompleteAt (c : Chip) (b : Nat) : Chip :=
  let x := c.basin b
  if decide (b < c.basinCount) && x.running && x.live && !x.preempting && ((c.coresOf b).all fun i =>
      (c.core i).phase == .ended && (c.core i).ebb.isNone) then
    let c' := c.passLast b
    if c'.allLast b && c'.allOrdered b then c'.leaveRun b 0 else c
  else c

/-- A pre-empted basin whose units have stopped leaves RUN (R272): the step is marked, holds end without release. -/
def leavePreempted (c : Chip) (b : Nat) : Chip :=
  let c := c.setField (R.seqStepStatus b) 11 1 1
  let c := (c.setField (R.tidBarrier b) 6 1 0).setBasin b fun x => { x with barRelease := none, arrivals := [] }
  c.leaveRun b 1

/-- Whether every unit of every core of a pre-empted basin has stopped: in its last cycle, no block waits for its adjudication, no
core runs. -/
def allStopped (c : Chip) (b : Nat) : Bool :=
  c.allLast b && !c.writesWait b && (c.coresOf b).all fun i => (c.core i).adj.isEmpty && (c.core i).phase != .run

/-- Every unit of every core of a pre-empted basin has stopped (R272). -/
def basinPreemptedAt (c : Chip) (b : Nat) : Chip :=
  let x := c.basin b
  if decide (b < c.basinCount) && x.running && x.preempting then
    let c' := if x.live then c.passLast b else c
    if c'.allStopped b then c'.leavePreempted b else c
  else c

end Chip
end Sys2Proof.Machine
end

