-- ==== Sys2Proof/Machine/RegFile.lean ====
section
/-! DEFINITION. The register file as commands see it: reads with their latches (R12, R43), registers whose value is computed, and
writes (R14) with the rules that single registers add. -/

namespace Sys2Proof.Machine

/-- The life-cycle state of fuses (R434, Table 12.10). -/
def lifeState (f : Fuses) : Nat :=
  if f.retired then 5 else if f.exits < f.entries then 4 else if f.deployed then 3 else if f.provisioned then 2 else 1

/-- The physical array that a logical array of a core stands on (R25). -/
def physOf (disabled a : Nat) : Nat := if a < disabled then a else a + 1

namespace Mem

/-- Cells, poison and errors of a range gone: it reads as zero. -/
def clearRange (m : Mem) (lo hi : Nat) : Mem :=
  { cells := m.cells.filter fun e => !(lo ≤ e.1 && e.1 < hi), poison := m.poison.filter fun e => !(lo ≤ e.1 && e.1 < hi),
    lineErr := m.lineErr.filter fun e => !(lo ≤ e.1 && e.1 < hi), wordErr := m.wordErr.filter fun e => !(lo ≤ e.1 && e.1 < hi) }

end Mem

namespace Chip

/-! ### Registers whose value is computed -/

/-- The register that holds what an address shows: a basin's RED values once (R344), PWR on die 38 (R468), LNK_DIR on die 20
(R306). -/
def canon (c : Chip) (a : Nat) : Nat :=
  let d := raDie a
  let i := raIndex a
  match raBlock a with
  | 0x12 => ra (c.redAt (c.basinOfHarbour d)) 0x12 i
  | 0x21 => ra 38 0x21 i
  | 0x11 => if inRun i 0x18 7 then ra 20 0x11 i else a
  | _ => a

/-- TID_ISSUE_k (Table 07.16) (log entry 15, DEDUCED). -/
def issueStatus (c : Chip) (i : Nat) : Word :=
  let k := c.core i
  let st : Nat := match k.phase with
    | .idle => 0
    | .preempted => if !c.inSchedule i then 6 else if k.ebb.isSome then 2 else 1
    | .ended => 7
    | .run => if k.ebb.isSome then 2 else match k.hold with
      | some h => (match h.kind with
        | .barrier _ _ => 3
        | .gate => 4
        | .tide _ => 5)
      | none => 1
  packF [(0, 24, k.bundle), (24, 3, st), (27, 1, k.loose.toNat), (28, 3, k.loops.length),
    (31, 1, (c.audited (c.basinOfCore i)).toNat), (32, 16, k.waitLeft)]

/-- TID_LOOP_k_l (Table 07.16): level 0 is the outermost. -/
def loopStatus (c : Chip) (i l : Nat) : Word :=
  match (c.core i).loops.reverse[l]? with
  | some x => packF [(0, 24, x.start), (24, 24, x.iterLeft), (48, 16, x.lenM1)]
  | none => 0

/-- The state code of a basin (Table 11.6). -/
def basinState (c : Chip) (b : Nat) : Nat :=
  if c.basinCount ≤ b then 0
  else if c.dev = .faulted then 6
  else if !c.running b then 2
  else if (c.coresOf b).any fun i => (c.core i).ebb.isSome then 4 else 3

/-- The package's state code (Table 11.6). -/
def devCode (c : Chip) : Nat :=
  match c.dev with
  | .off => 0
  | .boot => 1
  | .ready => 2
  | .drain => 5
  | .faulted => 6
  | .wipe => 7

/-- FUS_ARRAY_MAP_n (Table 01.3). -/
def arrayMap (c : Chip) (n : Nat) : Word :=
  let d := c.die (n / 2)
  let dis := if n % 2 = 0 then d.disabled0 else d.disabled1
  packF [(0, 3, physOf dis 0), (4, 3, physOf dis 1), (8, 3, physOf dis 2), (12, 3, physOf dis 3), (16, 3, dis),
    (19, 1, d.arrayOk.toNat)]

/-- Block FUS (Table 12.21, Table 12.22, Table 01.3). -/
def fusView (c : Chip) (i : Nat) : Word :=
  let f := c.fuses
  let bitsOf (l : List Bool) : Nat := condBits l
  let hash (s w : Nat) (ed : Bool) : Word :=
    match f.slots[s]? with
    | some k => if k.programmed then BitVec.ofNat 64 (leAt (if ed then k.ed else k.ml) (8 * w) 8) else 0
    | none => 0
  if i = 0 then packF [(0, 1, 1), (8, 8, min 255 f.mismatches)]
  else if i = 1 || i = 2 then BitVec.ofNat 64 (leAt f.serial (8 * (i - 1)) 8)
  else if i = 3 then packF [(0, 3, lifeState f), (3, 1, f.seedKilled.toNat), (4, 5, f.entries), (9, 5, f.exits), (14, 4, f.replacements)]
  else if i = 4 then packF [(0, 7, f.svnMin), (8, 4, bitsOf (f.slots.map KeySlot.programmed)),
    (12, 4, bitsOf (f.slots.map KeySlot.revoked)), (16, 1, f.seedOk.toNat)]
  else if inRun i 0x10 24 then hash ((i - 0x10) / 6) ((i - 0x10) % 6) true
  else if inRun i 0x28 24 then hash ((i - 0x28) / 6) ((i - 0x28) % 6) false
  else if inRun i 0x40 40 then
    let d := c.die (i - 0x40)
    packF [(0, 56, leAt d.lot 0 7), (56, 8, d.wafer)]
  else if inRun i 0x80 40 then
    let d := c.die (i - 0x80)
    packF [(0, 8, d.x), (8, 8, d.y), (16, 8, d.stepping), (24, 4, dieType (i - 0x80)), (32, 32, d.crc)]
  else if inRun i 0x100 40 then c.arrayMap (i - 0x100)
  else 0

/-- Block TID local: the count, and what a core's issue shows. -/
def tidlView (c : Chip) (a : Nat) : Word :=
  let d := raDie a
  let i := raIndex a
  if i = 0 then BitVec.ofNat 64 c.tide
  else if 20 ≤ d then c.reg a
  else if inRun i 0x10 2 then BitVec.ofNat 64 (c.shownCycle (2 * d + (i - 0x10)))
  else if inRun i 0x18 2 then c.issueStatus (2 * d + (i - 0x18))
  else if inRun i 0x58 8 then c.loopStatus (2 * d + (i - 0x58) / 4) ((i - 0x58) % 4)
  else c.reg a

/-- QUA_FLOW_f and QUA_FLOW_SEQ_f (Table 11.17). -/
def flowView (c : Chip) (f : Nat) : Word :=
  let x := c.flow f
  packF [(0, 2, x.state), (2, 2, x.peer), (4, 16, x.hostPort), (20, 32, x.session), (52, 9, unackedOf x)]
def flowSeqView (c : Chip) (f : Nat) : Word := packF [(0, 32, (c.flow f).rxNext), (32, 32, (c.flow f).txNext)]

/-- Block SEQ. -/
def seqView (c : Chip) (a : Nat) : Word :=
  let i := raIndex a
  if i = 0 then packF ((0, 3, c.devCode) :: tabulate 4 fun b => (3 * b + 8, 3, c.basinState b))
  else if i = 1 then BitVec.ofNat 64 c.quay.cmds.length
  else if inRun i 0x100 64 then (if c.basinCount ≤ (i - 0x100) / 16 then 0 else c.reg a)
  else if inRun i 0x400 512 then (if c.basinCount ≤ (i - 0x400) / 128 then 0 else c.reg a)
  else c.reg a

/-! ### Identity keys (R429) -/

/-- The first 32 bytes. -/
def first32 (l : List Byte) : List Byte := l.take 32
/-- The label's final character: "D" while the keys in force were derived in DEBUG, else "P". -/
def keyLabel (c : Chip) : List Byte := if c.regField R.secStatus 1 1 = 1 then ascii "D" else ascii "P"
/-- The Ed25519 private key, and the seed of the ML-DSA-65 key pair. -/
def edSeed (c : Chip) : List Byte := Chip.first32 (Config.hmacSha384 c.fuses.seed (ascii "OQ2040-IDK-ED-" ++ c.keyLabel))
def mlSeed (c : Chip) : List Byte := Chip.first32 (Config.hmacSha384 c.fuses.seed (ascii "OQ2040-IDK-ML-" ++ c.keyLabel))
def haveKeys (c : Chip) : Bool := c.regField R.secStatus 0 1 == 1
/-- The identity public keys; zero where no key is derived. -/
def edPublic (c : Chip) : List Byte := if c.haveKeys then sliceB (Config.ed25519Public c.edSeed) 0 32 else List.replicate 32 0
def mlPublic (c : Chip) : List Byte := if c.haveKeys then sliceB (Config.mldsaPublic c.mlSeed) 0 1952 else List.replicate 1952 0

/-- The report public key; zero before one is drawn (R415, R430). -/
def reportPublic (c : Chip) : List Byte :=
  if c.regField R.secStatus 2 1 = 1 then sliceB (Config.ed25519Public c.pilot.reportSeed) 0 32 else List.replicate 32 0

/-- What a register reads as, at its canonical address (log entry 54, DEDUCED). -/
def viewAt (c : Chip) (a : Nat) : Word :=
  let d := raDie a
  let i := raIndex a
  let core (lo : Nat) : Nat := 2 * d + (raBlock a - lo)
  let arr : Word := if i = 0 then c.passStatus (core 1) else c.reg a
  let mvu : Word := if i = 0 then c.mvuStatus (core 3) else c.reg a
  let vec : Word := if i = 0 then c.vecStatus (core 5) else if inRun i 0x100 128 then c.lsStatus (core 5) (i - 0x100) else c.reg a
  let str : Word := if i < 4 then c.engineStatus (core 7) i else c.reg a
  let chk : Word := if i = 0 then
      fset (c.reg a) 0 1 (c.core (core 9)).scan.isSome.toNat
    else c.reg a
  match raBlock a with
  | 0x01 => arr
  | 0x02 => arr
  | 0x03 => mvu
  | 0x04 => mvu
  | 0x05 => vec
  | 0x06 => vec
  | 0x07 => str
  | 0x08 => str
  | 0x09 => chk
  | 0x0A => chk
  | 0x0B =>
    let p := tuirdProbe (c.seedOf d) (c.reg (R.rngProbeStep d)).toNat (c.reg (R.rngProbeLo d)).toNat (c.reg (R.rngProbeHi d)).toNat
    if i = 6 then BitVec.ofNat 64 p else if i = 7 then BitVec.ofNat 64 (p / 2 ^ 64) else c.reg a
  | 0x0C => if i = 1 then fset (c.reg a) 1 1 (decide ((c.win d).left ≠ 0)).toNat else c.reg a
  | 0x0E => c.tidlView a
  | 0x1E => if inRun i 2 4 then BitVec.ofNat 64 (leAt c.reportPublic (8 * (i - 2)) 8) else if inRun i 6 4 then BitVec.ofNat 64 (leAt c.edPublic (8 * (i - 6)) 8) else c.reg a
  | 0x11 =>
    if inRun i 0x18 7 then c.dirStatus (i - 0x18)
    else if i = 0x23 then fset (c.reg a) 0 5 (c.copyQueue d).length
    else c.reg a
  | 0x12 => if i = 1 then fset (c.reg a) 0 5 (c.basin (c.basinOfHarbour d)).colls.length else c.reg a
  | 0x18 => if i = 2 then BitVec.ofNat 64 (c.fuses.mac % 2 ^ 48) else if inRun i 0x20 16 then c.flowView (i - 0x20) else if inRun i 0x30 16 then c.flowSeqView (i - 0x30) else c.reg a
  | 0x19 => c.seqView a
  | 0x1D => c.fusView i
  | 0x21 => if i = 0 then fset (c.reg a) 48 2 c.thermalClass else c.reg a
  | _ => c.reg a

/-- Read a register: none where the address names no register (R43). WO fields read zero (R10); a record captured in this very cycle
is not read yet (R12). -/
def regRead (c : Chip) (a : Nat) : Option Word :=
  (regAt a).map fun r =>
    let v := c.viewAt (c.canon a) &&& ~~~ fieldsMask r.wo
    if c.cycleNow.caught.contains (c.canon a) then v &&& ~~~ fieldsMask r.rol else v

/-- A read releases the latch of a register's RO-L fields; what qualified in the same cycle is captured (R12). -/
def release (c : Chip) (a : Nat) : Chip :=
  match regAt a with
  | some r =>
    let x := c.canon a
    if r.rol.isEmpty || c.cycleNow.caught.contains x then c
    else match c.cycleNow.missed.find? fun m => m.1 == x with
      | some m => { c.put x m.2 with fresh := { c.cycleNow with caught := x :: c.cycleNow.caught } }
      | none => c.put x (c.reg x &&& ~~~ fieldsMask r.rol)
  | none => c

/-! ### Writes -/

/-- The plain effect of a write: RW fields take their bits, a one clears a W1C-S flag that was not set in this very cycle (R10, R14). -/
def plainWrite (c : Chip) (a : Nat) (v : Word) : Chip :=
  match regAt a with
  | none => c
  | some r =>
    let x := c.canon a
    let rw := fieldsMask r.rw
    c.put x (((c.reg x &&& ~~~ rw) ||| (v &&& rw)) &&& ~~~ (v &&& fieldsMask r.w1c &&& ~~~ c.cycleNow.mask x))

/-- Whether a basin is in READY with no program bound; so is every basin when configuration records are applied (R424, R427). -/
def freeBasin (c : Chip) (b : Nat) : Bool := [Dev.ready, .boot, .wipe].contains c.dev && !c.running b && !c.bound b

/-- The RED registers of the new cut: every new basin shows what its first harbour die showed (R49, R344). Of merged basins that is the
first one's (log entry 71, DESIGN CHOICE). -/
def recutRed (c : Chip) (oldCut : Nat) : Sparse Word :=
  let rest := c.regs.filter fun e => raBlock e.1 ≠ 0x12
  c.basinsIn.foldl (fun m b =>
    let h := c.firstHarbour b
    let oldDie := 20 + (h - 20) / (4 * rowsOf oldCut) * (4 * rowsOf oldCut)
    (c.regs.filter fun e => raBlock e.1 = 0x12 && raDie e.1 = oldDie).foldl
      (fun m e => regPut m (ra h 0x12 (raIndex e.1)) e.2) m) rest

/-- An accepted change of the basin cut (R49). -/
def changeCut (c : Chip) (cut : Nat) : Chip :=
  let old := c.cut
  let c := ((c.setField R.pltBasinCut 0 2 cut).setField R.pltBasinCut 4 3 (4 / rowsOf cut)).addField R.pltBasinCut 8 32 1
  let c := { c with regs := c.recutRed old }
  let c := foldN 4 (fun c b =>
    let c := foldN 64 (fun c r => (c.put (R.seqMoorBase b r) 0).put (R.seqMoorLen b r) 0) c
    let c := (c.setField (R.seqGate b) 0 2 0).put (R.tidBasinTiming b) 0
    let c := ((c.put (R.seqStep b) 0).put (R.seqStepStatus b) 0).put (R.seqDvorBase b) 0
    (c.put (R.seqPackAddr b) 0).setField (R.seqDvorRing b) 0 32 0) c
  let c := foldN 20 (fun c s =>
    let c := (c.put (R.rngSeedLo s) 0).put (R.rngSeedHi s) 0
    let i := 2 * s % c.coreCount
    c.put (R.rngIdent s) (packF [(16, 6, i), (22, 6, i + 1)])) c
  let c := c.basinsIn.foldl (fun c b =>
    let h := c.redAt b
    foldN 64 (fun c i => c.put (R.redRankmap h i) 0) (c.setField (R.redIdent h) 0 13 0)) c
  { c with basins := List.replicate 4 Basin.reset }

/-- A write to PLT_BASIN_CUT (R49, Table 01.12). -/
def cutWrite (c : Chip) (v : Word) : Except Status Chip :=
  let cut := fget v 0 2
  if cut = 3 then .error .badParam
  else if cut = c.cut then .ok c
  else if c.basinsIn.all c.freeBasin then .ok (c.changeCut cut)
  else .error .notInState

/-- An accepted change of a harbour die's pinned ways (R219). -/
def changeWays (c : Chip) (h p : Nat) : Chip :=
  let old := c.pinnedWays h
  let c := (c.setField (R.hbcWays h) 0 5 p).setField (R.hbcWays h) 8 5 (24 - p)
  let c := { c with mem := c.mem.clearRange (pinnedBase h + min old p * 0x800000) (pinnedBase h + max old p * 0x800000) }
  c.dropLines fun l => l.die = h

/-- A write to HBC_WAYS (R219). -/
def waysWrite (c : Chip) (h : Nat) (v : Word) : Except Status Chip :=
  let p := fget v 0 5
  if 24 < p then .error .badParam
  else if p = c.pinnedWays h then .ok c
  else if c.freeBasin (c.basinOfHarbour h) then .ok (c.changeWays h p)
  else .error .notInState

/-- A write to MEM_CACHE_RANGE_r (R219, R221, R229): every line of the stack leaves the cache ways. -/
def rangeWrite (c : Chip) (s r : Nat) (v : Word) : Except Status Chip :=
  if c.freeBasin (c.basinOfSett s) then
    .ok ((c.plainWrite (R.memCacheRange s r) v).dropLines fun l => l.line / stackSize = s)
  else .error .notInState

/-- A write to TID_SYNC_CTRL (R231). -/
def armWrite (c : Chip) (v : Word) : Except Status Chip :=
  if !fbit v 0 then .ok c
  else if c.anyRun then .error .notInState
  else .ok ((c.setField (ra 38 0x20 0) 3 1 1).setField (ra 39 0x20 0) 3 1 1)

/-- A write to SEQ_STEP_LOAD_b (Table 08.13; R366 in DRAIN). -/
def stepLoadWrite (c : Chip) (b : Nat) (v : Word) : Except Status Chip :=
  if c.basinCount ≤ b then .error .badParam
  else if c.dev = .drain && v ≠ c.reg (R.seqStep b) then .error .drained
  else if !c.freeBasin b then .error .notInState
  else .ok ((c.settsOf b).foldl (fun c s => c.setField (R.rngIdent s) 8 8 0) (c.put (R.seqStep b) v))

/-- Whether a range lies wholly in a basin's DRAM. -/
def inBasinDram (c : Chip) (a n : Nat) : Bool := a + n ≤ c.settCount * stackSize

/-- Enabled non-empty moored regions of a basin: base and length. -/
def moored (c : Chip) (b : Nat) : List (Nat × Nat) :=
  (List.range 64).filterMap fun r =>
    let v := c.reg (R.seqMoorBase b r)
    let n := c.regField (R.seqMoorLen b r) 0 36 * 4096
    if fbit v 63 && n ≠ 0 then some (fget v 0 48, n) else none

/-- Whether two ranges overlap. -/
def rangesMeet (a n b m : Nat) : Bool := a < b + m && b < a + n

/-- Writes to the Dvor ring's base and slots, and to the packing address (R300, R351). -/
def ringWrite (c : Chip) (b which : Nat) (v : Word) : Except Status Chip :=
  let a := R.seqDvorBase b + 8 * which
  if c.basinCount ≤ b then .error .badParam
  else if which = 2 then
    if fget v 0 7 ≠ 0 || !c.inBasinDram (fget v 0 48) 1024 then .error .badParam
    else if c.undecided b then .error .notInState
    else .ok (c.plainWrite a v)
  else
    let base := if which = 0 then fget v 0 48 else c.regField (R.seqDvorBase b) 0 48
    let slots := if which = 0 then c.regField (R.seqDvorRing b) 0 16 else fget v 0 16
    if (which = 0 && fget v 0 12 ≠ 0) || !c.inBasinDram base (max slots 1 * 4096) then .error .badParam
    else if slots ≠ 0 && (c.moored b).any (fun r => rangesMeet base (slots * 4096) r.1 r.2) then .error .badParam
    else if c.undecided b then .error .notInState
    else
      let c := c.plainWrite a v
      .ok (if which = 1 then c.setField a 16 16 0 else c)

/-- Whether a moored declaration is allowed (R351): an enabled region in the basin's DRAM or in pinned ways, off the ring. -/
def mayMoor (c : Chip) (b base n : Nat) (en : Bool) : Bool :=
  let slots := c.regField (R.seqDvorRing b) 0 16
  base % 4096 = 0 && (!en || n = 0 ||
    ((c.inBasinDram base n || (match c.relocate b base, c.relocate b (base + n - 1) with
        | some x, some y => (match c.region x, c.region y with
          | .pinned h _, .pinned h' _ => h == h'
          | _, _ => false)
        | _, _ => false)) &&
      !(slots ≠ 0 && rangesMeet base n (c.regField (R.seqDvorBase b) 0 48) (slots * 4096))))

/-- A write to SEQ_MOOR_BASE_b_r or SEQ_MOOR_LEN_b_r (R351; R366 in DRAIN). -/
def moorWrite (c : Chip) (b r : Nat) (len : Bool) (v : Word) : Except Status Chip :=
  let a := if len then R.seqMoorLen b r else R.seqMoorBase b r
  let new := (c.plainWrite a v).reg a
  let base := if len then c.reg (R.seqMoorBase b r) else new
  let n := if len then fget new 0 36 else c.regField (R.seqMoorLen b r) 0 36
  if c.basinCount ≤ b then .error .badParam
  else if c.dev = .drain && new ≠ c.reg a then .error .drained
  else if !c.mayMoor b (fget base 0 48) (n * 4096) (fbit base 63) then .error .badParam
  else if c.undecided b || c.running b then .error .notInState
  else .ok (c.plainWrite a v)

/-- Whether LNK_TOPO values form a topology of Table 09.3. -/
def topoLegal (v : Word) : Bool :=
  let x := fget v 2 4 + 1
  let y := fget v 6 4 + 1
  let z := fget v 10 4 + 1
  let inside := fget v 14 4 < x && fget v 18 4 < y && fget v 22 4 < z
  inside && fget v 26 2 ≠ 3 && (match fget v 0 2 with
    | 0 => x == 1 && y == 1 && z == 1
    | 1 => x == 16 && y == 1 && z == 1
    | 2 => 2 ≤ x && 2 ≤ y && z == 1 && 16 ≤ x * y && x * y ≤ 64
    | _ => 2 ≤ x && x ≤ 4 && 2 ≤ y && y ≤ 4 && 2 ≤ z && z ≤ 4 && 16 ≤ x * y * z && x * y * z ≤ 64)

/-- A write to LNK_TOPO of a harbour die (R308, Table 09.16). -/
def topoWrite (c : Chip) (h : Nat) (v : Word) : Except Status Chip :=
  if !topoLegal v then .error .badParam
  else if c.anyRun then .error .notInState
  else .ok (c.plainWrite (R.lnkTopo h) v)

/-- A write to LNK_COPY_CTRL (R319, Table 09.19): push queues a copy (log entry 18, DEDUCED). -/
def pushWrite (c : Chip) (h : Nat) (v : Word) : Except Status Chip :=
  let len := fget v 0 40
  let src := c.regField (R.lnkCopySrc h) 0 48
  let dst := c.reg (R.lnkCopyDst h)
  if !fbit v 40 then .ok (c.plainWrite (R.lnkCopyCtrl h) v)
  else if len % 128 ≠ 0 || src % 128 ≠ 0 then .error .badParam
  else if 16 ≤ (c.copyQueue h).length then .error .busy
  else
    let c := c.plainWrite (R.lnkCopyCtrl h) v
    let j : CopyJob := { src := src, dst := fget dst 0 48, link := fget dst 48 3, len := len }
    .ok (popCopies 16 ({ c with fab := { c.fab with copies := modifyAt c.fab.copies (h - 20) (· ++ [j]) } }.setField
      (R.lnkCopyStatus h) 5 1 0) h)

/-- A write to CHK_STATE_LOAD (R229): ignored while the unit is busy. -/
def chkLoadWrite (c : Chip) (i : Nat) (v : Word) : Except Status Chip :=
  if (c.core i).scan.isSome then .ok c else .ok (c.put (R.chkState i) v)

/-- A write to QUA_PHY (R374): a change of mode retrains the port. -/
def phyWrite (c : Chip) (v : Word) : Except Status Chip :=
  if fget v 0 2 = c.regField R.quaPhy 0 2 then .ok c
  else if c.anyRun then .error .notInState
  else .ok ((c.plainWrite R.quaPhy v).setField R.quaPhy 2 9 0)

/-- Whether an enabled aperture is aligned and inside the window (Table 11.18). -/
def aperLegal (dev host len : Word) : Bool :=
  !fbit len 44 || (fget dev 0 12 == 0 && fget host 0 12 == 0 && isWindow (fget dev 0 48) &&
    decide (fget dev 0 48 + 4096 * fget len 0 36 ≤ 0x1000000000000))

/-- A write to an aperture register: `which` 0 device, 1 host, 2 length (R385, Table 11.18). -/
def aperWrite (c : Chip) (n which : Nat) (v : Word) : Except Status Chip :=
  let a := R.quaAperDev n + 8 * 16 * which
  let d := c.plainWrite a v
  if !aperLegal (d.reg (R.quaAperDev n)) (d.reg (R.quaAperHost n)) (d.reg (R.quaAperLen n)) then .error .badParam
  else if c.anyRun then .error .notInState
  else .ok d

/-- A write to QUA_NET, or to an address of the port or of a peer (R375, R378): none while a basin is in RUN (log entry 25, DEDUCED). -/
def netWrite (c : Chip) (i : Nat) (v : Word) : Except Status Chip :=
  if i = 1 && (fget v 0 14 < 1518 || 9216 < fget v 0 14) then .error .badParam
  else if c.anyRun then .error .notInState
  else .ok (c.plainWrite (R.qua i) v)

/-- A write to a seed (R287; R366 in DRAIN). -/
def seedWrite (c : Chip) (a : Nat) (v : Word) : Except Status Chip :=
  if c.dev = .drain && v ≠ c.reg a then .error .drained
  else if c.undecided (c.basinOfSett (raDie a)) then .error .notInState
  else .ok (c.plainWrite a v)

/-- A REG_WRITE to block SEQ. -/
def seqWrite (c : Chip) (i : Nat) (v : Word) : Except Status Chip :=
  if inRun i 0x100 64 then
    let b := (i - 0x100) / 16
    match i % 16 with
    | 1 => c.stepLoadWrite b v
    | 2 => c.ringWrite b 0 v
    | 3 => c.ringWrite b 1 v
    | 4 => c.ringWrite b 2 v
    | _ => if c.basinCount ≤ b then .error .badParam else .ok c
  else if inRun i 0x400 512 then
    let b := (i - 0x400) / 128
    c.moorWrite b ((i - 0x400) % 128 / 2) (i % 2 == 1) v
  else .ok c

/-- Write a register (R14): BAD_PARAM where the address names none (log entry 9, DEDUCED). -/
def regWrite (c : Chip) (a : Nat) (v : Word) : Except Status Chip :=
  let d := raDie a
  let i := raIndex a
  match regAt a with
  | none => .error .badParam
  | some _ =>
    match raBlock a with
    | 0x09 => if i = 6 then c.chkLoadWrite (2 * d) v else .ok (c.plainWrite a v)
    | 0x0A => if i = 6 then c.chkLoadWrite (2 * d + 1) v else .ok (c.plainWrite a v)
    | 0x0B => if i < 2 then c.seedWrite a v else .ok (c.plainWrite a v)
    | 0x0C => if inRun i 0x20 8 then c.rangeWrite d (i - 0x20) v else .ok (c.plainWrite a v)
    | 0x10 => if i = 0 then c.waysWrite d v else .ok (c.plainWrite a v)
    | 0x11 => if i = 0 then c.topoWrite d v else if i = 0x22 then c.pushWrite d v else .ok (c.plainWrite a v)
    | 0x18 =>
      if i = 0 then c.phyWrite v
      else if i = 1 || inRun i 3 3 || inRun i 0x10 8 then c.netWrite i v
      else if inRun i 0x40 48 then c.aperWrite ((i - 0x40) % 16) ((i - 0x40) / 16) v
      else .ok (c.plainWrite a v)
    | 0x19 => c.seqWrite i v
    | 0x1C => if i = 0x40 then c.cutWrite v else .ok (c.plainWrite a v)
    | 0x20 => if i = 1 then c.armWrite v else .ok (c.plainWrite a v)
    | _ => .ok (c.plainWrite a v)

end Chip
end Sys2Proof.Machine
end

