-- ==== Sys2Proof/Machine/Commands.lean ====
section
/-! DEFINITION. The command sequencer (R389 to R396): admission by package state and scope, the order of checks, replies; and the
register, memory, program, step, fabric and drain commands of Table 11.7. -/

namespace Sys2Proof.Machine

/-- Scope of an opcode (R390, Table 11.7): package-wide, of a basin, or either. -/
inductive Scope where
  | package | basin | either
  deriving DecidableEq, Repr

/-- What a command answers once it is admitted: a failure of step 5, 6 or 7; one final reply after the chip given; or
ACCEPTED_PENDING, and what follows it, with the final reply where that comes at once. -/
inductive Ans where
  | fail (st : Status)
  | done (c : Chip) (st : Status) (body : List Byte)
  | pend (f : Chip → Chip × Option (Status × List Byte))

namespace Chip

/-- Opcodes refused with DRAINED in device state DRAIN (Table 10.12). -/
def drainRefuses (op : Nat) : Bool :=
  [0x0201, 0x0203, 0x0301, 0x0302, 0x0303, 0x0304, 0x0305, 0x0306, 0x0403, 0x0404].contains op

/-- Opcodes answered in FAULTED (R368). -/
def faultedServes (op : Nat) : Bool := [0x0002, 0x0101, 0x0103, 0x0202, 0x0601, 0x0602].contains op

/-- Whether an opcode is a MEM command, which the package flag frees of the basin rule (R390). -/
def isMem (op : Nat) : Bool := 0x0201 ≤ op && op ≤ 0x0204

/-- Steps 3 and 4 of R391; `wipeOk` says whether the command is served while memories are wiped (Table 11.6). A basin at or above the
cut's basins is refused with the package flag too, but in a MEM command (R50, R390) (log entry 62, DEDUCED). -/
def refusalOf (c : Chip) (h : Hdr) (op : Nat) (scope : Scope) (wipeOk : Bool) : Option Status :=
  if c.dev = .drain && drainRefuses op then some .drained
  else if c.dev = .faulted && !faultedServes op then some .drained
  else if c.dev = .wipe && !wipeOk then some .notInState
  else
    let named := decide (h.basin < c.basinCount)
    let ok := match scope with
      | .package => h.pkg || (h.basin == 0 && c.cut == 0)
      | .basin => !h.pkg
      | .either => true
    if ok && (named || (h.pkg && isMem op)) then none else some .badParam

/-- Whether the 64 pending commands are reached (R394). -/
def fullPending (c : Chip) : Bool := 64 ≤ c.quay.cmds.length

/-- The final reply of a command that is held pending. -/
def finalReply (c : Chip) (h : Hdr) (op : Nat) (r : Status × List Byte) : Chip :=
  let p : PendCmd := { h := h, opcode := op, session := (c.flow h.flow).session }
  ({ c with quay := { c.quay with cmds := c.quay.cmds.erase p } }).reply h op r.1 r.2

/-- Check, carry out and answer a command (R391 to R394). Without power and during boot no command arrives. -/
def answer (c : Chip) (h : Hdr) (op : Nat) (scope : Scope) (wipeOk : Bool) (k : Chip → Ans) : Chip :=
  if c.dev = .off || c.dev = .boot then c
  else match c.refusalOf h op scope wipeOk with
    | some st => c.reply h op st []
    | none => match k c with
      | .fail st => c.reply h op st []
      | .done c' st body =>
        if !c.replyFits h.flow body.length then c.reply h op .badParam []
        else if c.fullPending then c.reply h op .busy []
        else c'.reply h op st body
      | .pend f =>
        if c.fullPending then c.reply h op .busy []
        else
          let r := f (c.hold h op)
          match r.2 with
          | some x => r.1.finalReply h op x
          | none => r.1

/-! ### Registers -/

/-- Blocks whose registers are read during a wipe (Table 11.6). -/
def wipeBlock (a : Nat) : Bool := [0x18, 0x19, 0x1C, 0x1D, 0x1E].contains (raBlock a)

def cmdNop (c : Chip) (h : Hdr) : Chip := c.answer h 0x0001 .either true fun c => .done c .ok []

def cmdRegRead (c : Chip) (h : Hdr) (a : Nat) : Chip :=
  c.answer h 0x0101 .package (wipeBlock a) fun c => match c.regRead a with
    | some v => .done ((c.release a).meshReg a) .ok (toLE 8 v.toNat)
    | none => .fail .badParam

/-- A REG_WRITE, by the rules of the register it names (R14). -/
def cmdRegWrite (c : Chip) (h : Hdr) (a : Nat) (v : Word) : Chip :=
  c.answer h 0x0102 .package false fun c => match c.regWrite a v with
    | .ok c' => .done (c'.meshReg a) .ok []
    | .error st => .fail st

def cmdRegReadBlock (c : Chip) (h : Hdr) (a n : Nat) : Chip :=
  c.answer h 0x0103 .package (wipeBlock a) fun c =>
    let addrs := tabulate n fun i => a + 8 * i
    if n = 0 || 1024 < n || 2 ^ 17 ≤ raIndex a + (n - 1) then .fail .badParam
    else match addrs.mapM c.regRead with
      | some vs => .done ((addrs.foldl release c).meshReg a) .ok (vs.flatMap fun v => toLE 8 v.toNat)
      | none => .fail .badParam

/-- The body of Table 11.10. -/
def beatBody (c : Chip) : List Byte :=
  let per (f : Nat → Nat) : List Nat := tabulate 4 fun b => if b < c.basinCount then f b else 0
  toLE 8 c.tide ++ toLE 1 c.devCode ++ toLE 1 c.basinCount ++ toLE 1 (lifeState c.fuses) ++ toLE 1 (c.regField R.seqDrain 0 4) ++
    (tabulate 4 c.basinState).flatMap (toLE 1) ++ (per fun b => (c.reg (R.seqStep b)).toNat).flatMap (toLE 8) ++
    toLE 4 c.quay.beats ++ toLE 2 c.quay.cmds.length ++
    toLE 1 (condBits ((List.range 4).map fun b => decide (b < c.basinCount) && c.gateOpen b) +
      16 * condBits ((List.range 4).map fun b => decide (b < c.basinCount) && c.undecided b)) ++ toLE 1 0 ++
    toLE 8 c.quay.completed

def cmdHeartbeat (c : Chip) (h : Hdr) : Chip := c.answer h 0x0002 .either true fun c => .done c .ok c.beatBody

/-! ### Memory (R398, R50, R353) -/

/-- Whether a device range lies wholly within DRAM, one core's scratch or one die's pinned ways. -/
def oneRegion (c : Chip) (a n : Nat) : Bool :=
  match c.region a, c.region (a + n - 1) with
  | .dram _, .dram _ => true
  | .scratch i _, .scratch j _ => i == j
  | .pinned i _, .pinned j _ => i == j
  | _, _ => false

/-- The basins that own a device range. -/
def ownersOf (c : Chip) (a n : Nat) : List Nat :=
  match c.ownerOf a, c.ownerOf (a + n - 1) with
  | some x, some y => tabulate (y + 1 - x) (x + ·)
  | _, _ => []

/-- Whether a device range touches an enabled moored region of a basin. -/
def touchesMoored (c : Chip) (b a n : Nat) : Bool :=
  (c.moored b).any fun r => match c.relocate b r.1 with
    | some d => rangesMeet a n d r.2
    | none => false

/-- Parameter and state checks of the MEM commands (R50, R398, Table 11.7; R353 where `moor`) (log entry 17, DEDUCED). -/
def memCheck (c : Chip) (h : Hdr) (a n : Nat) (inRun moor : Bool) : Option Status :=
  let owners := c.ownersOf a n
  if n = 0 || a % 8 ≠ 0 || n % 8 ≠ 0 || !c.oneRegion a n || (!h.pkg && owners.any (· != h.basin)) then some .badParam
  else if !inRun && owners.any c.running then some .notInState
  else if moor && owners.any (fun b => c.undecided b && c.touchesMoored b a n) then some .notInState
  else none

/-- A command's write (R398). -/
def memStore (c : Chip) (a : Nat) (data : List Byte) : Chip := (c.noteMerges 0 a data.length).poke a (clean data)

def cmdMemWrite (c : Chip) (h : Hdr) (a : Nat) (data : List Byte) : Chip :=
  c.answer h 0x0201 .either false fun c =>
    if 8192 < data.length then .fail .badParam
    else match c.memCheck h a data.length false true with
      | some st => .fail st
      | none => .done (c.memStore a data) .ok []

/-- Bit i: a byte of the i-th 128 bytes is poisoned (R398). -/
def poisonMap (l : List PByte) : Nat := condBits ((chunks 128 l).map dirty)

def cmdMemRead (c : Chip) (h : Hdr) (a n : Nat) : Chip :=
  c.answer h 0x0202 .either false fun c =>
    if 8192 < n then .fail .badParam
    else match c.memCheck h a n true false with
      | some st => .fail st
      | none =>
        let l := c.peek a n
        .done (c.noteRead 0 a n) .ok (toLE 8 (poisonMap l) ++ plain l)

/-- The bytes of a fill: the pattern, eight bytes at a time. -/
def fillBytes (n : Nat) (pattern : Word) : List Byte := (List.replicate (n / 8) (toLE 8 pattern.toNat)).flatten

def cmdMemFill (c : Chip) (h : Hdr) (a n : Nat) (pattern : Word) : Chip :=
  c.answer h 0x0203 .either false fun c => match c.memCheck h a n false true with
    | some st => .fail st
    | none => .done (c.memStore a (fillBytes n pattern)) .ok []

/-- What a digest leaves in the check-value unit of a core: undefined values (R361, R398). -/
def scrambleChk (c : Chip) (i : Nat) : Chip :=
  { (c.put (R.chkState i) (Config.freeValue c.free)).put (R.chkResult i) (Config.freeValue (c.free + 1)) with free := c.free + 2 }

/-- The bytes of a host-window range through a basin's apertures; none where no aperture serves it. -/
def windowBytes (c : Chip) (b a n : Nat) : Option (List PByte) :=
  if isWindow a && isWindow (a + n - 1) && (c.firstUnmapped b a n).isNone then some (c.farPeek b a n) else none

/-- Status and body of MEM_DIGEST: the check value, and whether a poisoned byte was met (R398, Table 11.7). -/
def digestReply (poly : Nat) (l : List PByte) : Status × List Byte :=
  (if dirty l then .hold else .ok, toLE 8 (crc poly (plain l)) ++ toLE 4 (dirty l).toNat ++ toLE 4 0)

/-- A MEM_DIGEST of a device range reads it, and leaves the check-value unit of the core that owns it undefined. -/
def digestRange (c : Chip) (a n : Nat) : Chip := (c.noteRead 0 a n).scrambleChk (c.firstCore ((c.ownerOf a).getD 0))

/-- A MEM_DIGEST of a basin's window range sends its HREADs and waits for them. -/
def digestWindow (c : Chip) (h : Hdr) (a n poly : Nat) : Chip :=
  let p : PendCmd := { h := h, opcode := 0x0204, session := (c.flow h.flow).session }
  let d := c.sendReads (c.firstCore h.basin) h.basin a n false (fun _ => 0) 0 0 0
  let reads := (d.quay.hreads.drop c.quay.hreads.length).map fun r => (r.flow, r.tag)
  { d with quay := { d.quay with digests := d.quay.digests ++ [{ cmd := p, addr := a, len := n, poly := poly, reads := reads }] } }

/-- The digests whose host data is all there reply. -/
def settleDigests (c : Chip) : Chip :=
  let due (x : DigestJob) : Bool := !(c.quay.hreads.any fun r => x.reads.contains (r.flow, r.tag))
  (c.quay.digests.filter due).foldl (fun c x =>
      let b := x.cmd.h.basin
      let c := (c.scrambleChk (c.firstCore b))
      let r := digestReply x.poly (c.farPeek b x.addr x.len)
      { c with quay := { c.quay with cmds := c.quay.cmds.erase x.cmd } }.replyTo x.cmd r.1 r.2)
    { c with quay := { c.quay with digests := c.quay.digests.filter fun x => !due x } }

/-- Whether a pending MEM_DIGEST holds a basin's check-value units (R394). -/
def digesting (c : Chip) (b : Nat) : Bool := c.quay.digests.any fun x => x.cmd.h.basin == b

def cmdMemDigest (c : Chip) (h : Hdr) (a n poly : Nat) : Chip :=
  c.answer h 0x0204 .either false fun c =>
    if n = 0 || n % 64 ≠ 0 || 3 < poly then .fail .badParam
    else
      if !h.pkg && isWindow a then
        match c.windowBytes h.basin a n with
        | none => .fail .badParam
        | some _ =>
          if a % 8 ≠ 0 then .fail .badParam
          else if c.running h.basin then .fail .notInState
          else if c.digesting h.basin then .fail .busy
          else .pend fun c => (c.digestWindow h a n poly, none)
      else match c.memCheck h a n false false with
        | some st => .fail st
        | none => if c.digesting ((c.ownerOf a).getD 0) then .fail .busy else .pend fun c => (c.digestRange a n, some (digestReply poly (c.peek a n)))

/-! ### Programs (R399 to R401) -/

/-- Whether the package's stepping accepts a contract (R252). -/
def accepts (c : Chip) (contract : Nat) : Bool := contract = 1 || (contract = 2 && (c.die 0).stepping = 2)

/-- Length of a schedule header padded to 64 bytes (R240, R399). -/
def schedHead (cores : Nat) : Nat := (0x40 + 16 * cores + 63) / 64 * 64

/-- A schedule section, read from the image at an offset: INTEGRITY_HOLD where its header is poisoned, BAD_PARAM where it breaks
R241 or R400 (log entry 18, DEDUCED). -/
def readSched (img : List PByte) (contract off len : Nat) : Except Status Sched :=
  let at' (o n : Nat) : List PByte := (img.drop (off + o)).take n
  if img.length < off + len || off % 64 ≠ 0 || len < 0x40 then .error .badParam
  else if dirty (at' 0 0x40) then .error .hold
  else
    let head := plain (at' 0 0x40)
    let cores := leAt head 1 1
    if !([10, 20, 40].contains cores) || leAt head 2 1 % 4 = 3 || leAt head 0 1 ≠ contract || len < schedHead cores then
      .error .badParam
    else if dirty (at' 0 (schedHead cores)) then .error .hold
    else
      let l := plain (at' 0 (schedHead cores))
      let raw := tabulate cores fun b => (leAt l (0x40 + 16 * b) 6, leAt l (0x46 + 16 * b) 4)
      if raw.any (fun x => x.1 % 64 ≠ 0 || x.2 = 0 || 16777216 < x.2) ||
          len < schedHead cores + 64 * sumN (raw.map Prod.snd) then .error .badParam
      else
        let offs := tabulate cores fun b => off + schedHead cores + 64 * sumN ((raw.take b).map Prod.snd)
        .ok { cores := cores, contract := contract, scope := leAt head 2 1 % 4, streams := (raw.zip offs).map fun x => (x.1.1, x.1.2, x.2) }

/-- The schedules of an image (R400): its checks in order. -/
def readImage (c : Chip) (img : List PByte) : Except Status (List Sched) :=
  let n := img.length
  let contract := leAt (plain (img.take 6)) 5 1
  if n < 6 then .error .badParam
  else if img[5]? = some none then .error .hold
  else if !c.accepts contract then .error .contract
  else if n < 64 || n % 64 ≠ 0 then .error .badParam
  else if dirty (img.take 64) then .error .hold
  else
    let h := plain (img.take 64)
    let count := leAt h 6 1
    if leAt h 0 4 ≠ 0x474D4951 || leAt h 4 1 ≠ 1 || leAt h 8 8 ≠ n || count = 0 || 3 < count ||
        (List.range 3).any (fun i => count ≤ i && leAt h (0x10 + 16 * i) 16 ≠ 0) then .error .badParam
    else match (List.range count).mapM fun i => readSched img contract (leAt h (0x10 + 16 * i) 8) (leAt h (0x18 + 16 * i) 8) with
      | .error st => .error st
      | .ok ss =>
        if (ss.map Sched.cores).eraseDups.length ≠ ss.length then .error .badParam
        else if dirty img then .error .hold else .ok ss

/-- Whether a program slot is bound to a basin. -/
def slotBound (c : Chip) (slot : Nat) : Bool := c.regField (R.seqProg slot) 4 4 ≠ 0

/-- A loaded image takes its slot (R400, Table 11.21). -/
def loadSlot (c : Chip) (slot src : Nat) (img : List PByte) (ss : List Sched) : Chip :=
  let shape (n : Nat) : Bool := ss.any fun s => s.cores = n
  let contract := (ss.map Sched.contract).headD 1
  let c := c.put (R.seqProg slot) (packF [(0, 1, 1), (2, 2, contract), (8, 3, condBits [shape 10, shape 20, shape 40]),
    (12, 40, img.length / 64)])
  let c := c.put (R.seqProgHash slot) (BitVec.ofNat 64 (crc64 (plain img)))
  { c with progs := modifyAt c.progs slot fun _ => some { src := src, len := img.length, scheds := ss } }

/-- Whether a device range lies in DRAM or in one die's pinned ways. -/
def sourceOk (c : Chip) (a n : Nat) : Bool := c.oneRegion a n && !isScratch a

def cmdProgLoad (c : Chip) (h : Hdr) (slot src len : Nat) : Chip :=
  c.answer h 0x0301 .package false fun c =>
    if 7 < slot || len = 0 || !c.sourceOk src len then .fail .badParam
    else if c.slotBound slot then .fail .busy
    else .pend fun c =>
      let img := c.peek src len
      let c' := c.noteRead 0 src len
      match c.readImage img with
      | .ok ss => let c' := c'.loadSlot slot src img ss; (c', some (.ok, toLE 8 (c'.reg (R.seqProgHash slot)).toNat))
      | .error st => (c', some (st, []))

/-- TID_EQ of the contract bound (R251, Table 07.9). -/
def equalisers (c : Chip) (b contract : Nat) : Chip :=
  let v := if contract = 0 then 0
    else if contract = 1 && (c.die 0).stepping = 2 then packF [(0, 2, 1), (4, 4, 3), (8, 4, 4), (12, 4, 8)]
    else packF [(0, 2, contract)]
  (c.settsOf b).foldl (fun c s => c.put (R.tidEq s) v) c

/-- Bind a schedule: its bundle streams copied to their places, equalisers and audit set (R401). -/
def bindSched (c : Chip) (b slot : Nat) (audit : Bool) (img : List PByte) (s : Sched) : Chip :=
  let c := s.streams.foldl (fun c x => match c.relocate b x.1 with
    | some d => c.poke d ((img.drop x.2.2).take (64 * x.2.1))
    | none => c) c
  let c := c.put (R.seqBind b) (packF [(0, 3, slot), (3, 1, 1), (4, 1, audit.toNat)])
  let c := ((c.setField (R.seqProg slot) (4 + b) 1 1).equalisers b s.contract).meshCores b
  c.setBasin b fun x => { x with scope := s.scope, contract := s.contract }

/-- The checks of PROG_BIND after acceptance (R401). -/
def bindCheck (c : Chip) (slot : Nat) (p : Prog) (img : List PByte) : Except Status Sched :=
  if dirty img then .error .hold
  else if BitVec.ofNat 64 (crc64 (plain img)) ≠ c.reg (R.seqProgHash slot) then .error .badParam
  else match p.scheds.find? fun s => s.cores = c.coreCount with
    | none => .error .badParam
    | some s => if s.streams.all fun x => c.inBasinDram x.1 (64 * x.2.1) then .ok s else .error .badParam

/-- Unbind a basin's program (R401 mode 2). -/
def unbind (c : Chip) (b : Nat) : Chip :=
  if !c.bound b then c
  else
    let slot := c.regField (R.seqBind b) 0 3
    ((c.setField (R.seqProg slot) (4 + b) 1 0).put (R.seqBind b) 0).equalisers b 0

def cmdProgBind (c : Chip) (h : Hdr) (slot mode : Nat) : Chip :=
  c.answer h 0x0302 .basin false fun c =>
    let b := h.basin
    if 7 < slot || 2 < mode then .fail .badParam
    else if c.running b then .fail .notInState
    else if mode = 2 then
      (if c.undecided b then .fail .notInState else .pend fun c => (c.unbind b, some (.ok, [])))
    else if c.bound b then .fail .notInState
    else match c.prog slot with
      | none => .fail .notInState
      | some p => .pend fun c =>
        let img := c.peek p.src p.len
        let c' := c.noteRead 0 p.src p.len
        match c.bindCheck slot p img with
        | .ok s => (c'.bindSched b slot (mode == 1) img s, some (.ok, []))
        | .error st => (c', some (st, []))

/-! ### Steps -/

/-- Whether the setts of a basin hold one seed and one rank (R287). -/
def oneSeed (c : Chip) (b : Nat) : Bool :=
  let s0 := c.firstSett b
  (c.settsOf b).all fun s => c.seedOf s == c.seedOf s0 && c.regField (R.rngIdent s) 0 8 == c.regField (R.rngIdent s0) 0 8

/-- Whether the package is synced (R231). -/
def synced (c : Chip) : Bool := c.regField R.tidRefStatus 1 1 == 1

def cmdLaunchAtTide (c : Chip) (h : Hdr) (t : Nat) : Chip :=
  c.answer h 0x0303 .basin false fun c =>
    let b := h.basin
    if c.regField R.seqDrain 0 1 = 1 && !c.undecided b then .fail .drained
    else if t < c.tide + 50000 || c.tide + 10000000000 < t || !c.oneSeed b then .fail .badParam
    else if c.running b || !c.bound b || !c.synced then .fail .notInState
    else .pend fun c => (c.acceptLaunch b t, none)

/-- Every core of a basin in RUN holds at GATE_WAIT or has ended, and no PREEMPT stops it (R272, Table 10.6, Table 10.7). -/
def gateReached (c : Chip) (b : Nat) : Bool :=
  !c.running b || ((c.basin b).live && !(c.basin b).preempting && c.allHeld b)

def cmdStepCommit (c : Chip) (h : Hdr) : Chip :=
  c.answer h 0x0304 .basin false fun c =>
    let b := h.basin
    if !c.undecided b || (c.basin b).discarding || c.regField (R.seqStepStatus b) 11 1 = 1 then .fail .notInState
    else if c.gateOpen b || c.gatePending b then .fail .busy
    else if !c.gateReached b then .pend fun c => (c.setField (R.seqGate b) 1 1 1, none)
    else
      let r := c.evaluate b
      .done r.1 r.2.1 r.2.2

/-- A STEP_COMMIT that waits for its evaluation has no step to evaluate once the step is to be discarded (R359, Table 10.6) (log entry
20, DEDUCED). -/
def dropCommit (c : Chip) (b : Nat) : Chip :=
  if c.gatePending b then (c.setField (R.seqGate b) 1 1 0).finish opCommit b .notInState [] else c

/-- The undecided step of a basin is discarded (Table 10.7): cores at GATE_WAIT end as if END had issued (R269); out of RUN the
decision completes at once. -/
def discard (c : Chip) (b : Nat) : Chip :=
  let c := c.dropCommit b
  if c.running b then
    let c := (c.coresOf b).foldl (fun c i => match (c.core i).hold with
      | some { kind := .gate, .. } => c.setCore i fun k =>
        { k with phase := .ended, endCycle := some k.cycle, hold := none, waitLeft := 0 }
      | _ => c) c
    c.setBasin b fun x => { x with discarding := true }
  else c.decide' b false

def cmdStepDiscard (c : Chip) (h : Hdr) : Chip :=
  c.answer h 0x0305 .basin false fun c =>
    let b := h.basin
    if !c.undecided b || (c.basin b).discarding || c.gateOpen b || !c.gateReached b then .fail .notInState else .done (c.discard b) .ok []

/-- A PREEMPT reaches a basin (R272): deferred while its gate is open, else every core that no ebb holds stops (log entry 14, DEDUCED). -/
def preemptBasin (c : Chip) (b : Nat) : Chip :=
  let c := c.meshCores b
  if c.gateOpen b then c.setField (R.seqGate b) 7 1 1 else (c.setBasin b fun x => { x with preempting := true }).stopBasin b

def cmdPreempt (c : Chip) (h : Hdr) : Chip :=
  c.answer h 0x0306 .basin false fun c =>
    if c.running h.basin then .pend fun c => (c.preemptBasin h.basin, none) else .fail .notInState

/-! ### Fabric (R403) -/

/-- The LNK and RED registers of every harbour die, or of every basin. -/
def onHarbours (c : Chip) (f : Chip → Nat → Chip) : Chip := foldN 16 (fun c i => f c (20 + i)) c
def onReds (c : Chip) (f : Chip → Nat → Chip) : Chip := c.basinsIn.foldl (fun c b => f c (c.redAt b)) c
def anyBound (c : Chip) : Bool := c.basinsIn.any c.bound

/-- Whether FABRIC_CONFIG would change a group in its mask. -/
def groupsChange (c : Chip) (mask : Nat) (groups : List Nat) : Bool :=
  (List.range 16).any fun g => bits mask g 1 == 1 && (List.range 4).any fun w =>
    c.basinsIn.any fun b => (c.reg (R.redGroup (c.redAt b) g w)).toNat != bits (groups.getD g 0) (64 * w) 64

/-- An accepted FABRIC_CONFIG: the topology on every harbour die with slot mode off, the masked groups in every basin, and the
messages that may now start (R302, R317, R403). -/
def setFabric (c : Chip) (topo : Word) (mask : Nat) (groups : List Nat) : Chip :=
  let c := c.onHarbours fun c d => (c.plainWrite (R.lnkTopo d) topo).setField (R.lnkTopo d) 28 1 0
  let c := c.onReds fun c r => foldN 16 (fun c g => if bits mask g 1 = 0 then c
    else foldN 4 (fun c w => c.put (R.redGroup r g w) (BitVec.ofNat 64 (bits (groups.getD g 0) (64 * w) 64))) c) c
  foldN 32 drainWaiting c

def cmdFabricConfig (c : Chip) (h : Hdr) (topo : Word) (mask : Nat) (groups : List Nat) : Chip :=
  c.answer h 0x0401 .package false fun c =>
    if !topoLegal topo || 2 ^ 16 ≤ mask || groups.length ≠ 16 then .fail .badParam
    else if c.anyRun || (c.anyBound && c.groupsChange mask groups) then .fail .notInState
    else .pend fun c => (c.setFabric topo mask groups, some (.ok, []))

/-- An accepted SLOT_TABLE_LOAD: the entries of the masked links on every harbour die, and slot mode (R317, R403). -/
def loadSlots (c : Chip) (mask : Nat) (entries : List Byte) : Chip :=
  c.onHarbours fun c d =>
    let c := foldN 7 (fun c l => if bits mask l 1 = 0 then c
      else foldN 64 (fun c s => c.put (R.lnkSlot d l s) (BitVec.ofNat 64 (leAt entries (64 * l + s) 1))) c) c
    c.setField (R.lnkTopo d) 28 1 1

def cmdSlotTableLoad (c : Chip) (h : Hdr) (mask : Nat) (entries : List Byte) : Chip :=
  c.answer h 0x0402 .package false fun c =>
    if 2 ^ 7 ≤ mask || entries.length ≠ 448 || entries.any (fun e => 8 ≤ e.toNat) then .fail .badParam
    else if c.anyRun then .fail .notInState
    else .done (c.loadSlots mask entries) .ok []

/-- The least L_bar of a measured sideband latency, saturating (R343). -/
def lbarMin (latency : Nat) : Nat := min (2 * latency + 16) (2 ^ 24 - 1)

/-- An accepted BARRIER_CONFIG (R343): the barrier's group, its L_bar (`lbarMin` where the command gives zero) and the least one. -/
def setBarrier (c : Chip) (id group l m : Nat) : Chip :=
  c.onReds fun c r => c.put (R.redBar r id)
    (packF [(0, 4, group), (4, 1, 1), (8, 24, l), (32, 24, m), (56, 8, c.regField (R.redBar r id) 56 8)])

def cmdBarrierConfig (c : Chip) (h : Hdr) (id group lbar latency : Nat) : Chip :=
  c.answer h 0x0403 .package false fun c =>
    if id = 0 || 63 < id || 15 < group || 2 ^ 24 ≤ lbar then .fail .badParam
    else if c.anyRun || (c.members 0 group).isEmpty then .fail .notInState
    else .pend fun c =>
      let m := lbarMin latency
      let l := if lbar = 0 then m else lbar
      (c.setBarrier id group l m, some (.ok, toLE 4 m ++ toLE 4 l))

/-- A rank map entry (Table 11.7): rank, then x, y, z and basin as RED_RANKMAP_i holds them. -/
def rankOf (e : Nat) : Nat := bits e 0 8
def placeOf (e : Nat) : Nat := bits e 8 14

/-- RED_RANKMAP_i of a list of entries (Table 09.23). -/
def rankmapWord (entries : List Nat) (i : Nat) : Word :=
  packF ((List.range 4).flatMap fun j => match entries.find? fun e => rankOf e = 4 * i + j with
    | some e => [(16 * j, 14, placeOf e), (16 * j + 14, 1, 1)]
    | none => [])

/-- Whether RANK_ASSIGN would change a rank or the map (R321). -/
def ranksChange (c : Chip) (b rank : Nat) (entries : List Nat) : Bool :=
  rank != c.ownRank b || (List.range 64).any fun i =>
    c.basinsIn.any fun x => c.reg (R.redRankmap (c.redAt x) i) != rankmapWord entries i

/-- Whether the parameters of a RANK_ASSIGN hold together (R403, Table 11.7): ranks and places in range, each rank once, and the
basin's own entry among them. -/
def ranksOk (c : Chip) (b rank ebbGroup : Nat) (entries : List Nat) : Bool :=
  let here' := c.here 0 + c.here 1 * 2 ^ 4 + c.here 2 * 2 ^ 8 + b * 2 ^ 12
  !entries.isEmpty && decide (entries.length ≤ 256) && decide (rank ≤ 255) && decide (ebbGroup ≤ 15) &&
    entries.all (fun e => decide (e < 2 ^ 22)) && (entries.map rankOf).eraseDups.length == entries.length &&
    entries.all (fun e => decide (bits e 20 2 < c.basinCount)) && entries.any fun e => rankOf e == rank && placeOf e == here'

/-- An accepted RANK_ASSIGN (R321, R403): the basin's rank in its setts and its reduction engines, the rank map in every basin. -/
def assignRank (c : Chip) (b rank ebbGroup : Nat) (entries : List Nat) : Chip :=
  let c := (c.settsOf b).foldl (fun c s => c.setField (R.rngIdent s) 0 8 rank) (c.meshCores b)
  let c := c.put (R.redIdent (c.redAt b)) (packF [(0, 8, rank), (8, 4, ebbGroup), (12, 1, 1)])
  c.onReds fun c r => foldN 64 (fun c i => c.put (R.redRankmap r i) (rankmapWord entries i)) c

def cmdRankAssign (c : Chip) (h : Hdr) (rank ebbGroup : Nat) (entries : List Nat) : Chip :=
  c.answer h 0x0404 .basin false fun c =>
    let b := h.basin
    if !c.ranksOk b rank ebbGroup entries then .fail .badParam
    else if c.anyRun || (c.anyBound && c.ranksChange b rank entries) then .fail .notInState
    else .done (c.assignRank b rank ebbGroup entries) .ok []

/-! ### Integrity and drain (R361, R365 to R367, R371) -/

/-- The registers INT_STATUS reports, in order (R371, Table 11.7). -/
def intRegs (c : Chip) (b : Nat) : List Nat :=
  [R.seqGate b, R.seqStepStatus b, R.seqDrain] ++
    (c.settsOf b).flatMap fun s => [R.intStatus s, R.intEvents s] ++ tabulate 10 fun f => R.int s (2 + f)

/-- The body of INT_STATUS. -/
def intBody (c : Chip) (b : Nat) : List Byte := (c.intRegs b).flatMap fun a => toLE 8 (c.viewAt a).toNat

def cmdIntStatus (c : Chip) (h : Hdr) : Chip := c.answer h 0x0501 .basin false fun c => .done c .ok (c.intBody h.basin)

/-- A sett's adjudication log: the pointer, then its entries oldest first (Table 11.7). -/
def adjLog (c : Chip) (s : Nat) : List Word :=
  let next := c.regField (R.intAdjPtr s) 32 4
  c.reg (R.intAdjPtr s) :: tabulate 16 fun i => c.reg (R.intAdjLog s ((next + i) % 16))

/-- The body of ADJUDICATION_LOG. -/
def adjBody (c : Chip) (b : Nat) : List Byte := (c.settsOf b).flatMap fun s => (c.adjLog s).flatMap fun w => toLE 8 w.toNat

def cmdAdjudicationLog (c : Chip) (h : Hdr) : Chip := c.answer h 0x0503 .basin false fun c => .done c .ok (c.adjBody h.basin)

/-- Mode "now" of DRAIN (R367): every basin in RUN is pre-empted and every undecided step with a closed gate is discarded. -/
def drainNow (c : Chip) : Chip :=
  c.basinsIn.foldl (fun c b =>
    let open' := c.gateOpen b
    let c := if c.running b then c.preemptBasin b else c
    if open' || !(c.undecided b || c.running b) then c
    else
      let c := c.dropCommit b
      if c.running b then c.setBasin b fun x => { x with discarding := true } else c.decide' b false) c

def cmdDrain (c : Chip) (h : Hdr) (mode replace : Nat) : Chip :=
  c.answer h 0x0502 .package false fun c =>
    if 1 < mode || 1 < replace then .fail .badParam
    else if c.dev = .drain then .done (if replace = 1 then c.flagReplacement else c) .ok []
    else .pend fun c =>
      let c := c.startDrain 0xF 36 0 (replace == 1)
      (if mode = 1 then c.drainNow else c, none)

/-- The package enters DRAIN (R365): basins drained by another basin's trigger are marked (log entry 49, DEDUCED). -/
def drainEnterAt (c : Chip) : Chip :=
  if c.dev ≠ .ready || c.regField R.seqDrain 0 1 = 0 || c.anyUndecided || c.anyRun then c
  else
    let die := c.regField R.seqDrain 9 6
    let src := c.regField R.seqDrain 15 2
    let others := if die < 36 then condBits ((List.range 4).map fun b => decide (b < c.basinCount) && b != src) else 0
    let c := (({ c with dev := .drain }.setField R.seqDrain 1 1 1).setField R.seqDrain 17 4 others).tellDrain 0x11
    c.finishAll 0x0502 .ok []

/-- replica_digest of R361 over the bytes of a region. -/
def replicaDigest (l : List Byte) : Nat := crc64 ((chunks (2 ^ 28) l).flatMap fun p => toLE 8 (crc64 p))

/-- Whether a basin range is whole pages of the basin's DRAM or of one die's pinned ways; its device address. -/
def pagesAt (c : Chip) (b base n : Nat) : Option Nat :=
  if base % 4096 ≠ 0 || n % 4096 ≠ 0 || n = 0 then none
  else match c.relocate b base, c.relocate b (base + n - 1) with
    | some x, some y => if x + n - 1 = y && c.sourceOk x n && !isWindow x then some x else none
    | _, _ => none

/-- The range a REPLICA_DIGEST names: a moored region that is enabled (mode 0), or a base and a length (Table 11.7). -/
def replicaRange (c : Chip) (b mode region base len : Nat) : Nat × Nat :=
  let v := c.reg (R.seqMoorBase b region)
  if mode = 0 then (fget v 0 48, if fbit v 63 then 4096 * c.regField (R.seqMoorLen b region) 0 36 else 0) else (base, len)

/-- A digest over a device range of a basin is taken and held (R361): a poisoned one stands for none (log entry 19, DEDUCED). -/
def takeReplica (c : Chip) (b d n reg : Nat) : Chip :=
  let l := c.peek d n
  let bad := dirty l
  let dig := replicaDigest (plain l)
  let c := c.noteRead 0 d n
  let c := foldN (min (ceilDiv n (2 ^ 28)) c.coreCount) (fun c i => c.scrambleChk (c.firstCore b + i)) c
  let c := (c.put (R.seqReplica b) (BitVec.ofNat 64 dig)).put (R.seqReplicaStat b)
    (packF [(1, 1, 1), (2, 1, bad.toNat), (32, 32, reg)])
  c.setAcc b fun a => { a with replica := if bad then none else some (dig, reg) }

def cmdReplicaDigest (c : Chip) (h : Hdr) (mode region base len : Nat) : Chip :=
  c.answer h 0x0504 .basin false fun c =>
    let b := h.basin
    let r := c.replicaRange b mode region base len
    match c.pagesAt b r.1 r.2 with
    | none => .fail .badParam
    | some d =>
      if 1 < mode || (mode = 0 && 63 < region) then .fail .badParam
      else if c.running b then .fail .notInState
      else if c.digesting b then .fail .busy
      else .pend fun c =>
        let l := c.peek d r.2
        (c.takeReplica b d r.2 (if mode = 0 then region else 0xFFFFFFFF),
          some (if dirty l then (.hold, []) else (.ok, toLE 8 (replicaDigest (plain l)))))

end Chip
end Sys2Proof.Machine
end

