-- ==== Sys2Proof/Machine/Power.lean ====
section
/-! DEFINITION. The tide dies' references and sync (R231 to R233), the power controller (R457 to R462), trips and FAULTED
(R363, R368, R464), POWER_POINT and THERMAL_READ (R458, R465). -/

namespace Sys2Proof.Machine
open Sys2Proof

/-- A tick of a record carried over a load of the tide count: as long ago as before (log entry 21, DEDUCED). -/
def shiftTick (old new t : Nat) : Nat := new - (old - t)

/-- The hottest of a list of readings. -/
def hottest (l : List Nat) : Nat := l.foldl max 0

namespace Chip

/-! ### References and sync -/

/-- TID_REF_STATUS of a tide die. -/
def refStatus (die : Nat) : Nat := ra die 0x20 0

/-- The tide count takes a value; spans that are measured in ticks go on. -/
def loadTide (c : Chip) (v : Nat) : Chip :=
  let f := shiftTick c.tide v
  let win (w : Win) : Win := { w with lastTick := f w.lastTick, corr := w.corr.map fun e => (e.1, f e.2) }
  let core (k : Core) : Core := { k with hold := k.hold.map fun h => { h with start := f h.start } }
  let basin (b : Basin) : Basin := { b with colls := b.colls.map fun k => { k with tick := f k.tick } }
  let flow (x : Flow) : Flow :=
    { x with halved := x.halved.map f, unacked := x.unacked.map fun p => { p with tick := f p.tick } }
  let quay : Quay := { c.quay with flows := c.quay.flows.map flow, hreads := c.quay.hreads.map fun r => { r with tick := f r.tick } }
  { c with clk := { c.clk with fastAt := c.clk.fastAt.map f }, tide := v, wins := c.wins.map win, cores := c.cores.map core, basins := c.basins.map basin, quay := quay,
           pilot := { c.pilot with rates := c.pilot.rates.map fun r => { r with tick := f r.tick } } }

/-- A TIDE_SYNC pulse at the TIDE_REF edge that samples it: it loads the count when armed (R231), else is checked once synced
(R232) (log entry 28, DEDUCED). -/
def takePulse (c : Chip) : Chip :=
  let v := (c.reg R.tidSyncValue).toNat
  let st := R.tidRefStatus
  let c :=
    if c.regField st 3 1 = 1 then
      let c := c.loadTide v
      [38, 39].foldl (fun c d => (c.setField (refStatus d) 3 1 0).setField (refStatus d) 1 1 1) c
    else if c.regField st 1 1 = 1 then
      let d := ((c.tide : Int) - (v : Int)) % 10000000
      if 2 < d ∧ d < 9999998 then (c.event R.tidPkgEvents 1).tellTide else c
    else c
  [38, 39].foldl (fun c d => c.setField (refStatus d) 8 56 c.tide) c

/-- A TIDE_SYNC pulse, sampled at the next TIDE_REF edge. -/
def syncPulse (c : Chip) : Chip := (c.pass ((10 - c.clk.framePos) % 10)).takePulse

/-- TIDE_REF shows no edge for 100 ns at a tide die (R233). -/
def refLostAt (c : Chip) (die : Nat) : Chip :=
  let r := refStatus die
  ((((c.event R.tidPkgEvents 0).setField r 2 1 1).setField r 1 1 0).setField r 0 1 0).tellTide

/-- TIDE_REF has been present for 1 ms and the clock has locked to it again (R233). -/
def refRecovered (c : Chip) (die : Nat) : Chip := (c.setField (refStatus die) 0 1 1).setField (refStatus die) 2 1 0

/-! ### Readings and the controller -/

/-- Readings reach PWR_STATUS, PWR_TEMP_i and MEM_STATUS. -/
def takeReadings (c : Chip) (r : Readings) : Chip :=
  let st := R.pwrStatus
  let c := ((c.setField st 16 16 r.vin).setField st 32 16 r.iin).setField st 53 9 r.vio
  let c := foldN 5 (fun c i => c.put (R.pwrTemp i) (packF (tabulate 8 fun j => (8 * j, 8, r.logic.getD (8 * i + j) 0)))) c
  foldN 20 (fun c s => c.setField (R.memStatus s) 24 8 (r.dram.getD s 0)) c

/-- Thermal limit of Table 13.7, its thresholds lowered by POWER_POLICY (R461) (log entry 28, DEDUCED). -/
def thermalLimit (c : Chip) (r : Readings) : Bool :=
  let l := hottest r.logic + c.clk.lowerLogic
  let d := hottest r.dram + c.clk.lowerDram
  if c.regField R.pwrStatus 51 1 = 1 then !(decide (l ≤ 92) && decide (d ≤ 89)) else decide (95 ≤ l) || decide (92 ≤ d)

/-- The throttle level the controller has set: the one in force, or the one that waits for the group boundary. -/
def wantedLevel (c : Chip) : Nat := c.clk.level.getD c.level

/-- The controller sets a throttle level, in force from the next group boundary (R236, R457). -/
def setLevel (c : Chip) (n : Nat) : Chip := { c with clk := { c.clk with level := if n = c.level then none else some n } }

/-- The level of the next period by the first rule of R457 that matches, and whether rule 2 applied. -/
def nextLevel (n cap power : Nat) (fast thermal : Bool) : Nat × Bool :=
  if fast then (min n 32, false)
  else if thermal || cap < power then (max (n - 4) 8, true)
  else if 100 * power < 95 * cap then (min (n + 1) 64, false)
  else (n, false)

/-- The work of a control period (R457, R460, R461): readings, limits, and the level of the period. -/
def control (c : Chip) (r : Readings) : Chip :=
  let c := c.takeReadings r
  let st := R.pwrStatus
  let thermal := c.thermalLimit r
  let c := if thermal && c.regField st 51 1 = 0 then c.event R.pwrEvents 1 else c
  let c := (c.setField st 0 16 r.power).setField st 51 1 thermal.toNat
  let cap := c.regField R.pwrCap 0 16
  let n := c.wantedLevel
  let x := nextLevel n cap r.power (c.regField st 52 1 = 1) thermal
  let forCap := x.2 && decide (cap < r.power)
  let c := c.setField st 50 1 forCap.toNat
  let c := if forCap && decide (x.1 < n) then c.event R.pwrEvents 0 else c
  let run := if n = 8 && x.1 = 8 && decide (cap < r.power) then c.clk.overRun + 1 else 0
  let c := if run = 100 then c.event R.pwrEvents 3 else c
  ({ c with clk := { c.clk with overRun := run, period := some c.tide } }).setLevel x.1

/-- The tick at which the next control period begins: a multiple of 10,000 (R457). -/
def periodDue (c : Chip) : Nat :=
  if c.tide % 10000 = 0 && c.clk.period ≠ some c.tide then c.tide else (c.tide / 10000 + 1) * 10000

/-- A control period begins. -/
def controlPeriodAt (c : Chip) (r : Readings) : Chip := (c.passTo c.periodDue).control r

/-- Input current has been above 110 A for 1 µs or more (R459). An excess brings the row when it has lasted 1 µs and, where it goes on,
again as it ends (log entry 28, DEDUCED). -/
def fastLimitAt (c : Chip) : Chip :=
  let c := if c.regField R.pwrStatus 52 1 = 1 then c else c.event R.pwrEvents 2
  let c := (c.setField R.pwrStatus 52 1 1).setLevel (min c.wantedLevel 32)
  { c with clk := { c.clk with fastAt := some c.tide } }

/-- A fast limit ends 100 µs after the end of its latest excess (R459). -/
def fastLimitEndAt (c : Chip) : Chip :=
  match c.clk.fastAt with
  | none => c
  | some t =>
    let c := (c.passTo (t + 100000)).setField R.pwrStatus 52 1 0
    { c with clk := { c.clk with fastAt := none } }

/-! ### Trips and FAULTED -/

/-- The package enters FAULTED (R368): gates close, issue stops, writes not yet ordered drop, pending commands are logged
DRAINED (log entry 49, DEDUCED). -/
def enterFaultedState (c : Chip) (stopPorts : Bool) : Chip :=
  let open' := c.basinsIn.any c.gateOpen
  let c := c.setField R.seqDrain 2 1 1
  let c := (if open' then c.setField R.seqDrain 4 1 1 else c).tellDrain 0x12
  let c := c.basinsIn.foldl (fun c b =>
    ((c.setField (R.seqGate b) 0 1 0).setField (R.seqGate b) 1 1 0).setField (R.tidBarrier b) 6 1 0) c
  let cmds := c.quay.cmds
  let c := cmds.foldl (fun c p => c.logCmd p.h p.opcode .drained) c
  { c with
    dev := .faulted,
    cores := c.cores.map fun k =>
      { k with phase := if k.phase = .run then .preempted else k.phase, hold := none, ebb := none, adj := [], adjRun := [], passes := [],
               mvus := [], ldv := none, vops := [], scan := none, lands := [], vrPend := [] },
    basins := c.basins.map fun x =>
      { x with running := false, live := false, preempting := false, discarding := false, openAt := none, barRelease := none,
               arrivals := [], colls := [], early := [] },
    quay := { c.quay with cmds := [], hreads := [], digests := [] },
    wins := c.wins.map fun w => { w with writes := [] },
    fab := { c.fab with down := c.fab.down || stopPorts } }

/-- A fault in shared control: codes 0x0B to 0x0E of Table 10.10 (R363, R368). -/
def sharedFault (c : Chip) (code die : Nat) : Chip := (c.hwFault code die 0 7).enterFaultedState (decide (0xD ≤ code))

/-- Whether a reading lies in the trip window of its cause: supplies in units of 10 mV (Table 13.3), temperatures in °C (Table 13.7); a
converter reports without one (R464, Table 13.12). -/
def tripsAt (cause value : Nat) : Bool :=
  match cause with
  | 1 => decide (3600 ≤ value) && decide (value < 3800)
  | 2 => decide (value < 162) || decide (198 < value)
  | 3 => true
  | 4 => decide (115 ≤ value)
  | 5 => decide (100 ≤ value)
  | 6 => decide (6100 < value) && decide (value ≤ 6200)
  | _ => false

/-- The die field of PWR_TRIP_REC: the die of the reading, 0x3F for a supply (Table 13.12). -/
def tripDie (cause die : Nat) : Nat := if cause = 1 || cause = 2 || cause = 6 then 0x3F else die

/-- Whether the boot has halted: the package stays in BOOT until power is removed (R416) (log entry 29, DEDUCED). -/
def bootHalted (c : Chip) : Bool := c.dev == .boot && c.pilot.halted

/-- A POWER_TRIP (R464): recorded, a fault of the die that a thermal trip names, else of tide die 38, every throttled edge withheld
from now on (log entry 28, DEDUCED). -/
def powerTripAt (c : Chip) (cause reported value : Nat) : Chip :=
  let die := tripDie cause reported
  let c := c.event R.pwrEvents 5
  let c := c.latch R.pwrTripRec (packF [(0, 1, 1), (1, 3, cause), (4, 6, die), (10, 16, value), (26, 38, c.tide)])
  let c := if c.bootHalted then c else c.sharedFault 0xE (if die < 40 then die else 38)
  { c with clk := { c.clk with stopped := true },
           pins := { c.pins with thermtrip := c.pins.thermtrip || cause == 4 || cause == 5 } }

/-! ### Power commands -/

/-- Ticks to the next group boundary at the operating point in force. -/
def ticksToBoundary (c : Chip) : Nat :=
  ((List.range 128).find? fun k => 64 ≤ c.clk.group + edgesIn (edgesPerFrame c.op) c.clk.framePos (k + 1)).getD 127 + 1

/-- An accepted POWER_POINT (R458): the cap at once, zero keeping the cap in force; another operating point at the next group
boundary (R237), which is passed before the reply (log entry 22, DEDUCED). -/
def setPoint (c : Chip) (op cap : Nat) : Chip :=
  let c := if cap = 0 then c else c.setField R.pwrCap 0 16 cap
  if op = c.op then c
  else
    let c := { c with clk := { c.clk with op := some op } }
    (c.pass c.ticksToBoundary).event R.pwrEvents 4

def cmdPowerPoint (c : Chip) (h : Hdr) (op cap : Nat) : Chip :=
  c.answer h 0x0701 .package false fun c =>
    if 3 < op || (cap ≠ 0 && (cap < 1500 || 4200 < cap)) then .fail .badParam else .done (c.setPoint op cap) .ok []

/-- The body of Table 13.9. -/
def thermalBody (c : Chip) (r : Readings) : List Byte :=
  let st := R.pwrStatus
  toLE 1 c.op ++ toLE 1 c.level ++ toLE 1 c.thermalClass ++ toLE 1 (c.regField st 50 3) ++ toLE 2 (c.regField R.pwrCap 0 16) ++
    toLE 2 r.power ++ toLE 2 r.vin ++ toLE 2 r.iin ++ toLE 1 r.vio ++ toLE 1 (hottest r.logic) ++ toLE 1 (hottest r.dram) ++
    toLE 1 0 ++ (tabulate 40 fun d => r.logic.getD d 0).flatMap (toLE 1) ++
    (tabulate 20 fun s => r.dram.getD s 0).flatMap (toLE 1) ++ toLE 4 0

def cmdThermalRead (c : Chip) (h : Hdr) (r : Readings) : Chip :=
  c.answer h 0x0702 .package false fun c =>
    let c := c.takeReadings r
    .done c .ok (c.thermalBody r)

end Chip

/-- A TIDE_SYNC pulse (R231, R232). -/
def execTideSyncPulse (s : State) : Host.Outcome State Fault Refusal := s.upd fun c => if c.tideRuns then c.syncPulse else c

/-- A tide die loses TIDE_REF (R233). -/
def execRefLost (die : Nat) (s : State) : Host.Outcome State Fault Refusal :=
  s.upd fun c => if c.tideRuns && (die == 38 || die == 39) then c.refLostAt die else c

/-- A tide die's clock locks to TIDE_REF again (R233). -/
def execRefRecovery (die : Nat) (s : State) : Host.Outcome State Fault Refusal :=
  s.upd fun c => if c.tideRuns && (die == 38 || die == 39) then c.refRecovered die else c

/-- A control period begins (R457). -/
def execControlPeriod (r : Readings) (s : State) : Host.Outcome State Fault Refusal :=
  s.upd fun c => if c.tideRuns then c.controlPeriodAt r else c

/-- A fast limit starts or is extended (R459). -/
def execFastLimit (s : State) : Host.Outcome State Fault Refusal := s.upd fun c => if c.tideRuns then c.fastLimitAt else c

/-- A fast limit ends (R459). -/
def execFastLimitEnd (s : State) : Host.Outcome State Fault Refusal :=
  s.upd fun c => if c.tideRuns then c.fastLimitEndAt else c

/-- A supply, converter or thermal trip (R464). -/
def execPowerTrip (cause die value : Nat) (s : State) : Host.Outcome State Fault Refusal :=
  s.upd fun c => if c.dev != .off && Chip.tripsAt cause value then c.powerTripAt cause die value else c

/-- A fault of codes 0x0B to 0x0D (R363, R368); 0x0E is the trip's, which comes by POWER_TRIP alone (R464) (log entry 28, DEDUCED). -/
def execEnterFaulted (code die : Nat) (s : State) : Host.Outcome State Fault Refusal :=
  s.upd fun c =>
    if c.dev != .off && !c.bootHalted && decide (0xB ≤ code) && decide (code < 0xE) && decide (die < 40) then c.sharedFault code die else c

/-- POWER_POINT (R404, R458). -/
def execPowerPoint (h : Hdr) (op cap : Nat) (s : State) : Host.Outcome State Fault Refusal :=
  s.upd fun c => c.cmdPowerPoint h op cap

/-- THERMAL_READ (R465). -/
def execThermalRead (h : Hdr) (r : Readings) (s : State) : Host.Outcome State Fault Refusal :=
  s.upd fun c => c.cmdThermalRead h r

end Sys2Proof.Machine
end

