-- ==== Sys2Proof/Machine/Wipe.lean ====
section
/-! DEFINITION. Configuration records (R424), the identity keys (R429), and wiping (R426 to R428). -/

namespace Sys2Proof.Machine

/-- Blocks whose records a wipe does not apply again (R427). -/
def keptBlock (a : Nat) : Bool := [0x11, 0x12, 0x18].contains (raBlock a)

/-- Bits of a register that a wipe keeps (Table 12.7) (log entry 38, DEDUCED). -/
def wipeKeeps (a : Nat) : Word :=
  let i := raIndex a
  let all : Word := fmask 0 64
  match raBlock a with
  | 0x0C => if i = 1 then fmask 32 32 else 0
  | 0x0D => if i = 0x18 then fmask 0 32 else 0
  | 0x0E => if 20 > raDie a && i = 0x30 then fmask 0 32 else 0
  | 0x11 => if inRun i 2 6 || inRun i 0x12 3 then 0 else all
  | 0x12 => if i = 1 || inRun i 3 7 || inRun i 0x10 2 then 0 else all
  | 0x18 => if inRun i 0x72 10 || i = 0x81 || i = 0x82 then 0 else all
  | 0x19 =>
    if i = 0x20 || inRun i 0x200 64 then all
    else if i = 0x300 then fmask 3 1
    else if inRun i 0x100 64 && i % 16 = 6 then fmask 16 32
    else 0
  | 0x1C => if inRun i 0 0x14 || i = 0x18 || inRun i 0x20 5 then all else 0
  | 0x1E => all
  | 0x20 => if i = 0 || i = 2 || i = 3 then all else 0
  | 0x21 => if i = 0 || i = 1 || inRun i 0x18 5 then all else 0
  | _ => 0

/-- A register's value after a wipe. -/
def wipedReg (a : Nat) (v : Word) : Word := (v &&& wipeKeeps a) ||| (regDefault a &&& ~~~ wipeKeeps a)

/-- Whether a device address lies in the memories of a die: a sett's stack and scratch, a harbour die's ways. -/
def onDie (die a : Nat) : Bool :=
  if die < 20 then
    (die * Chip.stackSize ≤ a && a < (die + 1) * Chip.stackSize) || (Chip.scratchBase (2 * die) ≤ a && a < Chip.scratchBase (2 * die + 2))
  else if die < 36 then Chip.pinnedBase die ≤ a && a < Chip.pinnedBase (die + 1) else false

/-- A memory wiped but for the die that failed to report. -/
def Mem.wiped (m : Mem) (bad : Option Nat) : Mem :=
  match bad with
  | none => Mem.reset
  | some d => { cells := m.cells.filter fun e => onDie d e.1, poison := m.poison.filter fun e => onDie d e.1,
                lineErr := m.lineErr.filter fun e => onDie d e.1, wordErr := m.wordErr.filter fun e => onDie d e.1 }

namespace Chip

/-! ### Configuration records (R424) -/

/-- Apply one record; none where it breaks R424. -/
def applyRecord (c : Chip) (a : Nat) (v : Word) : Option Chip :=
  match regAt a with
  | none => none
  | some i =>
    let m := fieldsMask (i.rw ++ i.image)
    let im := fieldsMask i.image
    if v &&& ~~~ m ≠ regDefault a &&& ~~~ m then none
    else match c.regWrite a v with
      | .error _ => none
      | .ok c => some (if im = 0 then c else c.put a ((c.reg a &&& ~~~ im) ||| (v &&& im)))

/-- Put a byte list into registers of eight bytes each. -/
def putBytes (c : Chip) (base n : Nat) (l : List Byte) : Chip :=
  foldN n (fun c w => c.put (base + 8 * w) (BitVec.ofNat 64 (leAt l (8 * w) 8))) c

/-- Derive the identity keys; none once the seed is killed (R429, R438). -/
def deriveKeys (c : Chip) : Chip :=
  let st := R.secStatus
  (c.setField st 1 1 (lifeState c.fuses == 4).toNat).setField st 0 1 (!c.fuses.seedKilled).toNat

/-! ### The wipe (R427) -/

/-- Counts that TELEMETRY reports as differences: ebbs logged, corrected DRAM lines, link retries (Table 12.15). -/
def ebbsLogged (c : Chip) : Nat := sumN (tabulate 20 fun s => c.regField (R.tidEbbPtr s) 0 32)
def linesCorrected (c : Chip) : Nat := sumN (tabulate 20 fun s => c.regField (R.mem s 4) 0 32)
def linkRetries (c : Chip) : Nat := sumN (tabulate 32 fun p => c.regField (R.lnkPortCnt p) 0 32)

/-- The registers after a wipe of `us` microseconds: cleared, and the retained records applied again (Table 12.7). What TELEMETRY has not
reported of the counts that are cleared stays due (R444). -/
def wipedRegs (c : Chip) (us : Nat) : Chip :=
  let c1 : Chip := { c with
    regs := c.regs.filterMap fun e => let v := wipedReg e.1 e.2; if v = regDefault e.1 then none else some (e.1, v) }
  let c1 := { c1 with pilot := { c1.pilot with
    telEbbs := c.pilot.telEbbs + c1.ebbsLogged - c.ebbsLogged, telCorr := c.pilot.telCorr + c1.linesCorrected - c.linesCorrected,
    telRetries := c.pilot.telRetries + c1.linkRetries - c.linkRetries } }
  let c2 := c1.pilot.image.config.foldl (fun c r => if keptBlock r.1 then c else (c.applyRecord r.1 r.2).getD c) c1
  ((c2.addField R.pltWipe 0 32 1).setField R.pltWipe 32 24 us).setField R.pltWipe 56 1 0

/-- What a wipe does to the package, in `us` microseconds; `bad` names a die that did not report (R428). -/
def wiped (c : Chip) (us : Nat) (bad : Option Nat) : Chip :=
  let keepCore (i : Nat) : Bool := bad == some (i / 2)
  let win (w : Win) : Win := { w with repair := [], corr := [], phaseAt := 0, writes := [] }
  let port (p : Port) : Port := { p with replay := [], waiting := [] }
  let c1 : Chip := { c with
    mem := c.mem.wiped bad,
    vregs := c.vregs.filter fun e => keepCore (e.1 / 16384),
    vstore := c.vstore.filter fun e => keepCore (e.1 / (16 * 133120)),
    vpoison := c.vpoison.filter fun e => keepCore (e.1 / (16 * 16640)),
    vsErr := c.vsErr.filter fun e => keepCore (e.1 / (16 * 16640)),
    vrErr := c.vrErr.filter fun e => keepCore (e.1 / 8192),
    cores := List.replicate 40 Core.reset,
    basins := List.replicate 4 Basin.reset,
    progs := List.replicate 8 none,
    wins := c.wins.map win,
    fab := { c.fab with ports := c.fab.ports.map port, cache := [], prefetch := [] } }
  c1.wipedRegs us

/-- The package enters device state WIPE. -/
def beginWipe (c : Chip) (why : Nat) : Chip :=
  { c with dev := .wipe, pilot := { c.pilot with wipeFor := why } }.setField R.pltWipe 56 1 1

/-- A wipe of a command or a life-cycle transition has ended (R426, R428, R367, R437, R438). -/
def endWipe (c : Chip) (us : Nat) (bad : Option Nat) : Chip :=
  let c := if bad.isSome then c.setField R.seqDrain 3 1 1 else c
  let c := c.wiped us bad
  let c := if c.pilot.wipeFor = 1 then c.deriveKeys else c
  let c := if lifeState c.fuses = 5 then { c with pilot := { c.pilot with retiredWipe := true } }
    else if c.regField R.seqDrain 3 1 = 1 then
      ({ c with dev := .drain }.put R.seqDrain (packF [(0, 1, 1), (1, 1, 1), (3, 1, 1)])).tellDrain 0x11
    else { c with dev := .ready }
  (c.finishAll 0x0604 .ok []).finishAll 0x0603 .ok []

/-- WIPE (R394, R426). -/
def cmdWipe (c : Chip) (h : Hdr) (confirm : Nat) : Chip :=
  c.answer h 0x0604 .package false fun c =>
    if confirm ≠ 0x45504957 then .fail .badParam
    else if c.anyRun || c.anyUndecided then .fail .notInState
    else if !c.quay.cmds.isEmpty then .fail .busy
    else .pend fun c => (c.beginWipe 0, none)

end Chip
end Sys2Proof.Machine
end

