-- ==== Sys2Proof/Machine/Boot.lean ====
section
/-! DEFINITION. Power sequencing (R452 to R454) and the boot from power good to READY (R414 to R425). -/

namespace Sys2Proof.Machine
open Sys2Proof

/-! ### Fuses (R417 to R419, R434) -/

/-- A key slot as it loads: what is blown stays blown. -/
def loadSlotFuse (old new : KeySlot) : KeySlot :=
  { ed := if old.programmed then old.ed else new.ed, ml := if old.programmed then old.ml else new.ml,
    programmed := old.programmed || new.programmed, revoked := old.revoked || new.revoked }

/-- The fuses as they load: the die records and the package record as read; a fuse once blown reads blown. -/
def loadFuses (old new : Fuses) : Fuses :=
  { new with provisioned := old.provisioned || new.provisioned, deployed := old.deployed || new.deployed,
             retired := old.retired || new.retired, seedKilled := old.seedKilled || new.seedKilled,
             entries := max old.entries new.entries, exits := max old.exits new.exits,
             replacements := max old.replacements new.replacements, svnMin := max old.svnMin new.svnMin,
             slots := tabulate 4 fun i => loadSlotFuse (old.slots.getD i KeySlot.reset) (new.slots.getD i KeySlot.reset) }

/-- The first failure of stage FUSE: halt code and die (Table 12.2). A retired package halts with RETIRED whatever else fails
(R438) (log entry 29, DEDUCED). -/
def fuseFailure (f : Fuses) (trngOk : Bool) : Option (Nat × Nat) :=
  let dies := (f.dies.take 40).zip (List.range 40)
  let first (p : DieFuse → Nat → Bool) : Option Nat := (dies.find? fun x => p x.1 x.2).map Prod.snd
  if lifeState f = 5 then some (0x06, 0x3F)
  else if dies.length < 40 then some (0x01, dies.length)
  else match first fun d _ => !d.recordOk with
    | some d => some (0x01, d)
    | none => match first fun d n => decide (n < 20) && !d.arrayOk with
      | some d => some (0x02, d)
      | none => match first fun d _ => d.stepping != ((f.dies.headD DieFuse.reset).stepping) with
        | some d => some (0x03, d)
        | none => if !f.seedOk then some (0x04, 37) else if !trngOk then some (0x05, 37) else none

/-! ### The image (R420 to R422, R466) -/

/-- A section of the directory: type, offset and length. -/
structure Section where
  kind : Nat
  off : Nat
  len : Nat
  deriving DecidableEq, Repr

/-- Whether every byte of a run is zero. -/
def zeros (l : List Byte) (off n : Nat) : Bool := ((l.drop off).take n).all (· == 0)

/-- Directory entry `i` of an image header (Table 12.5). -/
def entryAt (l : List Byte) (i : Nat) : Section :=
  { kind := leAt l (0x40 + 16 * i) 1, off := leAt l (0x44 + 16 * i) 4, len := leAt l (0x48 + 16 * i) 4 }

def sigOffset (l : List Byte) : Nat := leAt l 0xC 4
def sectionCount (l : List Byte) : Nat := leAt l 0x11 1
def sectionsOf (l : List Byte) : List Section := tabulate (sectionCount l) (entryAt l)
/-- Bytes of the one section of a kind; none where the image has none. -/
def sectionBytes (l : List Byte) (kind : Nat) : Option (List Byte) :=
  ((sectionsOf l).find? fun s => s.kind = kind).map fun s => (l.drop s.off).take s.len

/-- Longest section of a kind (Table 12.6). -/
def sectionLimit (kind : Nat) : Nat :=
  match kind with
  | 1 => 0x800000
  | 2 => 0x400000
  | 3 => 0x400000
  | 4 => 0x10000
  | _ => 0

/-- Format of the image: R420 and R421. -/
def imageFormatOk (l : List Byte) : Bool :=
  let n := l.length
  let s := sigOffset l
  let secs := sectionsOf l
  let count (k : Nat) : Nat := (secs.filter fun x => x.kind = k).length
  decide (0x1000 ≤ n) && n ≤ 0x4000000 && leAt l 0 4 == 0x4D49514F && leAt l 4 1 == 1 && decide (leAt l 5 1 < 2) &&
    decide (leAt l 6 2 ≤ 64) && leAt l 8 4 == n && s % 4096 == 0 && decide (0x1000 ≤ s) && n == s + 5360 &&
    (decide (leAt l 0x10 1 ≤ 3) || leAt l 0x10 1 == 0xF) && decide (1 ≤ sectionCount l) && decide (sectionCount l ≤ 16) &&
    zeros l 0x12 2 && decide (leAt l 0x14 1 ≤ 4) && zeros l 0x15 3 &&
    ((List.range 4).all fun i => decide (leAt l (0x19 + 8 * i) 1 ≤ 4) && zeros l (0x1A + 8 * i) 2) && zeros l 0x38 8 &&
    ((List.range 16).all fun i => if i < sectionCount l then zeros l (0x41 + 16 * i) 3 && zeros l (0x4C + 16 * i) 4
      else zeros l (0x40 + 16 * i) 16) && zeros l 0x140 3776 && zeros l (s + 5357) 3 &&
    (secs.all fun x => decide (1 ≤ x.kind) && decide (x.kind ≤ 4) && decide (0x1000 ≤ x.off) && decide (x.off + x.len ≤ s) &&
      decide (x.len ≤ sectionLimit x.kind) && (x.kind != 3 || x.len % 16 == 0)) &&
    ((List.range secs.length).all fun i => (List.range i).all fun j =>
      match secs[i]?, secs[j]? with
      | some x, some y => decide (x.off + x.len ≤ y.off) || decide (y.off + y.len ≤ x.off)
      | _, _ => true) &&
    count 1 == 1 && count 3 == 1 && decide (count 2 ≤ 1) && decide (count 4 ≤ 1)

/-- The image digest D (R422). -/
def imageDigest (l : List Byte) : List Byte := Config.sha384 (l.take (sigOffset l))

/-- The checks of VERIFY in order: the halt code of the first that fails (R422). -/
def verifyFailure (f : Fuses) (l : List Byte) : Option Nat :=
  let s := sigOffset l
  let slot := leAt l 0x10 1
  let edPub := sliceB l s 32
  let mlPub := sliceB l (s + 32) 1952
  let edSig := sliceB l (s + 1984) 64
  let mlSig := sliceB l (s + 2048) 3309
  let blank := lifeState f = 1
  let k := f.slots.getD slot KeySlot.reset
  let slotOk := if slot = 0xF then blank else !blank && k.programmed && !k.revoked
  let hEd := if slot = 0xF then Config.romHashEd else k.ed
  let hMl := if slot = 0xF then Config.romHashMl else k.ml
  let msg := ascii "OQ2040-IMAGE-001" ++ imageDigest l
  if !imageFormatOk l then some 0x11
  else if !slotOk then some 0x12
  else if Config.sha384 edPub ≠ hEd ∨ Config.sha384 mlPub ≠ hMl then some 0x13
  else if !Config.ed25519Verify edPub msg edSig then some 0x14
  else if !Config.mldsaVerify mlPub msg mlSig then some 0x15
  else if leAt l 6 2 < f.svnMin then some 0x16
  else none

/-- The configuration records of an image: address, the word that must be zero, value (R424). -/
def recordsOf (l : List Byte) : List (Nat × Nat × Word) :=
  (chunks 16 ((sectionBytes l 3).getD [])).map fun r => (leAt r 0 4, leAt r 4 4, BitVec.ofNat 64 (leAt r 8 8))

/-- Registers that must have a record: those with a field whose Reset is "image" that records set. -/
def imageRegs : List Nat :=
  [R.quaPhy, R.quaNet, R.quaIp4, R.quaIp6Lo, R.quaIp6Hi] ++ tabulate 8 (fun i => R.qua (0x10 + i)) ++
    tabulate 5 fun i => R.plt (0x20 + i)

/-- POWER_POLICY within its ranges (Table 13.10) (log entry 29, DEDUCED). -/
def policyOk (l : List Byte) : Bool :=
  decide (leAt l 0 1 ≤ 3) && leAt l 1 1 == 0 && decide (1500 ≤ leAt l 2 2) && decide (leAt l 2 2 ≤ 4200) &&
    decide (leAt l 4 1 ≤ 15) && decide (leAt l 5 1 ≤ 15) && leAt l 6 2 == 0 &&
    ((List.range 4).all fun i => Config.supplyOk i (leAt l (8 + 2 * i) 2)) && zeros l 16 l.length

/-- Milliseconds after power good by which a boot stage ends (Table 12.1). -/
def stageDeadline : Stage → Nat
  | .none => 0
  | .fuse => 5
  | .flash => 180
  | .verify => 200
  | .config => 330
  | .wipe => 360
  | .ready => 400

def stageCode : Stage → Nat
  | .none => 0
  | .fuse => 1
  | .flash => 2
  | .verify => 3
  | .config => 4
  | .wipe => 5
  | .ready => 6

namespace Chip

/-! ### Power -/

/-- The package without power keeps its fuses and nothing else (R451, R453); what lies outside it stays. -/
def unpowered (c : Chip) : Chip :=
  { Chip.reset with
    dev := .off, host := c.host, fuses := c.fuses, defects := c.defects, free := c.free, wire := c.wire,
    pilot := { Pilot.reset with stage := .none, sinceGood := 0, image := { Image.reset with verified := false } },
    pins := { c.pins with pwrgd := false, faultHeld := false, thermtrip := false, converters := false } }

/-- Power good (R452): the boot begins. -/
def powerGoodAt (c : Chip) (addrSel : Bool) : Chip :=
  let c := c.unpowered
  let c : Chip := { c with dev := .boot, pilot := { c.pilot with stage := .fuse },
                           pins := { c.pins with pwrgd := true, converters := true, addrSel := addrSel } }
  ((c.put R.pltBootStatus (packF [(0, 4, 1), (16, 6, 0x3F)])).put R.secStatus 0).put R.pltWipe 0

/-- PKG_FAULT_N is low in DRAIN and FAULTED, and in BOOT after a halt (R454) or a power good timeout. -/
def pkgFaultLow (c : Chip) : Bool :=
  c.dev == .drain || c.dev == .faulted || (c.dev == .boot && c.pilot.halted) || c.pins.faultHeld

/-- THERMTRIP_N is low from a thermal trip until power is removed (R454). -/
def thermtripLow (c : Chip) : Bool := c.pins.thermtrip

/-! ### Stages -/

/-- The boot halts (R416). -/
def haltBoot (c : Chip) (code die : Nat) : Chip :=
  let st := R.pltBootStatus
  let c := ((c.setField st 4 1 1).setField st 8 8 code).setField st 16 6 die
  { c.setField st 32 32 (c.pilot.sinceGood / 1000000) with pilot := { c.pilot with halted := true } }

/-- The next stage begins. -/
def toStage (c : Chip) (s : Stage) : Chip :=
  { c.setField R.pltBootStatus 0 4 (stageCode s) with pilot := { c.pilot with stage := s } }

/-- Whether a boot stands in a stage. -/
def inStage (c : Chip) (s : Stage) : Bool := c.dev == .boot && c.pilot.stage == s && !c.pilot.halted

/-- The work of a stage, unless its deadline has passed (R415, R416) (log entry 29, DEDUCED). -/
def atStage (c : Chip) (s : Stage) (f : Chip → Chip) : Chip :=
  if !c.inStage s then c
  else if stageDeadline s * 1000000 < c.pilot.sinceGood then c.haltBoot 0x30 0x3F else f c

/-- Stage FUSE (R415, R417, R430). -/
def bootFuse (c : Chip) (f : Fuses) (d : BootDraws) : Chip :=
  let c := { c with fuses := loadFuses c.fuses f }
  let c := c.events R.pltEvents 1 f.mismatches
  match fuseFailure c.fuses d.ok with
  | some (code, die) => c.haltBoot code die
  | none =>
    let c := { c with pilot := { c.pilot with bootId := d.bootId, reportSeed := d.reportSeed } }
    let c := c.put R.secBootId (BitVec.ofNat 64 d.bootId)
    ((c.setField R.secStatus 2 1 1).setField R.secStatus 3 1 1).toStage .flash

/-- Stage FLASH: the image as it arrives; none where the flash does not answer or the image runs past it (R414, R415). -/
def bootFlash (c : Chip) (image : Option (List Byte)) : Chip :=
  match image with
  | none => c.haltBoot 0x10 0x3F
  | some l => ({ c.deriveKeys with pilot := { c.pilot with image := { bytes := l, verified := false, config := [] } } }).toStage .verify

/-- Stage VERIFY (R422, R442). -/
def bootVerify (c : Chip) : Chip :=
  let l := c.pilot.image.bytes
  match verifyFailure c.fuses l with
  | some code => c.haltBoot code 0x3F
  | none =>
    let c := c.put R.pltImage (packF [(0, 7, leAt l 6 2), (7, 1, leAt l 5 1 % 2), (8, 4, leAt l 0x10 1), (12, 4, sectionCount l - 1),
      (16, 16, ceilDiv l.length 4096)])
    let c := c.putBytes (R.pltImageDigest 0) 6 (imageDigest l)
    let c := { c with pilot := { c.pilot with image := { c.pilot.image with verified := true } } }
    let mgmt := (recordsOf l).filter fun r => raDie r.1 = 37 && raBlock r.1 = 0x1C && inRun (raIndex r.1) 0x20 5
    (mgmt.foldl (fun c r => (c.applyRecord r.1 r.2.2).getD c) c).toStage .config

/-- Apply the records of an image in order; the die of the first that breaks R424. -/
def applyRecords : List (Nat × Nat × Word) → Chip → Except Nat Chip
  | [], c => .ok c
  | r :: t, c =>
    if r.2.1 ≠ 0 then .error (raDie r.1)
    else match c.applyRecord r.1 r.2.2 with
      | some c' => applyRecords t c'
      | none => .error (raDie r.1)

/-- POWER_POLICY, or its defaults (R466). -/
def applyPolicy (c : Chip) (p : Option (List Byte)) : Chip :=
  match p with
  | none => (c.setField R.tidThrottle 0 2 0).setField R.pwrCap 0 16 3900
  | some l =>
    { (c.setField R.tidThrottle 0 2 (leAt l 0 1)).setField R.pwrCap 0 16 (leAt l 2 2) with
      clk := { c.clk with lowerLogic := leAt l 4 1, lowerDram := leAt l 5 1 } }

/-- Stage CONFIG (R423, R424, R466). -/
def bootConfig (c : Chip) (badDie : Option Nat) : Chip :=
  let l := c.pilot.image.bytes
  let recs := recordsOf l
  match applyRecords recs c with
  | .error die => c.haltBoot 0x20 die
  | .ok c =>
    match imageRegs.find? fun a => !recs.any fun r => r.1 = a with
    | some a => c.haltBoot 0x21 (raDie a)
    | none =>
      let pol := sectionBytes l 4
      if (match pol with
        | some p => !policyOk p
        | none => false) then c.haltBoot 0x20 38
      else
        let c := c.applyPolicy pol
        let c := c.putBytes (R.pltConfigDigest 0) 6 (Config.sha384 ((sectionBytes l 3).getD []))
        let kept : List (Nat × Word) := recs.map fun r => (r.1, r.2.2)
        let c := { c with pilot := { c.pilot with image := { c.pilot.image with config := kept } } }
        let c := if leAt l 5 1 % 2 = 1 && lifeState c.fuses = 3 then
            { c with fuses := { c.fuses with svnMin := max c.fuses.svnMin (leAt l 6 2) } } else c
        match badDie with
        | some d => c.haltBoot 0x22 d
        | none => c.toStage .wipe

/-- Stage WIPE (R426, R428): every memory is wiped. -/
def bootWipeAt (c : Chip) (us : Nat) (badDie : Option Nat) : Chip :=
  match badDie with
  | some d => c.haltBoot 0x23 d
  | none =>
    ({ c with mem := Mem.reset, vregs := [], vstore := [], vpoison := [], vsErr := [], vrErr := [] }.wipedRegs us).toStage .ready

/-- Bits of a register that hold at READY what the boot gave them: RW fields and those whose Reset is "image" or "boot" (R15, R424,
R425); PLT_MGMT shows its link. -/
def bootKeeps (a : Nat) : Word :=
  let whole := [R.pltBootStatus, R.pltImage, R.pltWipe, R.pltMgmt, R.secStatus, R.secBootId, R.pwrCap, R.tidThrottle] ++
    tabulate 6 R.pltImageDigest ++ tabulate 6 R.pltConfigDigest
  if whole.contains a then fmask 0 64
  else match regAt a with
    | some i => fieldsMask (i.rw ++ i.image)
    | none => 0

/-- The registers at READY (R425). -/
def readyRegs (c : Chip) : Chip :=
  { c with regs := c.regs.filterMap fun e =>
      let v := (e.2 &&& bootKeeps e.1) ||| (regDefault e.1 &&& ~~~ bootKeeps e.1)
      if v = regDefault e.1 then none else some (e.1, v) }

/-- READY (R230, R233, R425, R436). -/
def bootReady (c : Chip) (nonce : List Byte) (locked : Bool) (ms : Nat) : Chip :=
  let good := max c.pilot.sinceGood (ms * 1000000)
  if 400 < ms then c.haltBoot 0x30 0x3F
  else
    let c : Chip := { c.readyRegs with dev := .ready, tide := 0, pilot := { c.pilot with sinceGood := good } }
    let c := c.put R.pltBootStatus (packF [(0, 4, 6), (16, 6, 0x3F), (32, 32, max 1 ms)])
    let c := c.putBytes (R.pltNonce 0) 4 nonce
    [38, 39].foldl (fun c d => c.put (refStatus d) (packF [(0, 1, locked.toNat), (2, 1, (!locked).toNat)])) c

/-- A stage's deadline passes (R416). -/
def bootTimeout (c : Chip) : Chip :=
  let st := c.pilot.stage
  if c.dev ≠ .boot || c.pilot.halted || st = .none then c
  else (c.pass (stageDeadline st * 1000000 - c.pilot.sinceGood)).haltBoot 0x30 0x3F

end Chip

/-- BOARD_EN high (R452): the converters start. -/
def execBoardEnHigh (s : State) : Host.Outcome State Fault Refusal :=
  s.upd fun c => if c.dev == .off && !c.pins.boardEn then { c with pins := { c.pins with boardEn := true, converters := true } } else c

/-- Power good (R452). -/
def execPowerGood (addrSel : Bool) (s : State) : Host.Outcome State Fault Refusal :=
  s.upd fun c => if c.dev == .off && c.pins.boardEn && c.pins.converters then c.powerGoodAt addrSel else c

/-- Power good does not come (R452): PKG_FAULT_N low, converters off until BOARD_EN falls. -/
def execPowerGoodTimeout (s : State) : Host.Outcome State Fault Refusal :=
  s.upd fun c => if c.dev == .off && c.pins.boardEn && c.pins.converters then
    { c with pins := { c.pins with converters := false, faultHeld := true } } else c

/-- BOARD_EN low (R453): OFF. -/
def execBoardEnLow (s : State) : Host.Outcome State Fault Refusal :=
  s.upd fun c => let c := c.unpowered; { c with pins := { c.pins with boardEn := false } }

/-- VIN_48 outside 36 to 62 V (R464): off, with nothing recorded. -/
def execSupplyOff (s : State) : Host.Outcome State Fault Refusal := s.upd fun c => c.unpowered

/-- Boot stage FUSE. -/
def execFuse (f : Fuses) (d : BootDraws) (s : State) : Host.Outcome State Fault Refusal :=
  s.upd fun c => c.atStage .fuse fun c => c.bootFuse f d

/-- Boot stage FLASH. -/
def execFlash (image : Option (List Byte)) (s : State) : Host.Outcome State Fault Refusal :=
  s.upd fun c => c.atStage .flash fun c => c.bootFlash image

/-- Boot stage VERIFY. -/
def execVerify (s : State) : Host.Outcome State Fault Refusal := s.upd fun c => c.atStage .verify fun c => c.bootVerify

/-- Boot stage CONFIG. -/
def execConfig (badDie : Option Nat) (s : State) : Host.Outcome State Fault Refusal :=
  s.upd fun c => c.atStage .config fun c => c.bootConfig badDie

/-- Boot stage WIPE. -/
def execBootWipe (us : Nat) (badDie : Option Nat) (s : State) : Host.Outcome State Fault Refusal :=
  s.upd fun c => c.atStage .wipe fun c => c.bootWipeAt us badDie

/-- Boot stage READY. -/
def execReady (nonce : List Byte) (locked : Bool) (ms : Nat) (s : State) : Host.Outcome State Fault Refusal :=
  s.upd fun c => c.atStage .ready fun c => c.bootReady nonce locked ms

/-- A boot stage passes its deadline (R416). -/
def execTimeout (s : State) : Host.Outcome State Fault Refusal := s.upd fun c => c.bootTimeout

end Sys2Proof.Machine
end

