-- ==== Sys2Proof/Machine/CommandRows.lean ====
section
/-! DEFINITION. Meanings of the register, memory, program, step, fabric, integrity and drain commands (Table 11.7), and of the
events in which a launch, a gate and a drain go on. -/

namespace Sys2Proof.Machine
open Sys2Proof

/-! ### General and register commands (R397, R14, R41) -/

/-- NOP (R397). -/
def execNop (h : Hdr) (s : State) : Host.Outcome State Fault Refusal := s.upd fun c => c.cmdNop h
/-- HEARTBEAT (R397, R406). -/
def execHeartbeat (h : Hdr) (s : State) : Host.Outcome State Fault Refusal := s.upd fun c => c.cmdHeartbeat h
/-- REG_READ (R14, R12). -/
def execRegRead (h : Hdr) (addr : Nat) (s : State) : Host.Outcome State Fault Refusal := s.upd fun c => c.cmdRegRead h addr
/-- REG_WRITE (R14). -/
def execRegWrite (h : Hdr) (addr : Nat) (value : Word) (s : State) : Host.Outcome State Fault Refusal :=
  s.upd fun c => c.cmdRegWrite h addr value
/-- REG_READ_BLOCK (Table 11.7). -/
def execRegReadBlock (h : Hdr) (addr count : Nat) (s : State) : Host.Outcome State Fault Refusal :=
  s.upd fun c => c.cmdRegReadBlock h addr count
/-- A write to PLT_BASIN_CUT (R51). -/
def execPltBasinCutWrite (h : Hdr) (value : Word) (s : State) : Host.Outcome State Fault Refusal :=
  s.upd fun c => c.cmdRegWrite h R.pltBasinCut value
/-- A write to HBC_WAYS (R218). -/
def execHbcWaysWrite (h : Hdr) (die : Nat) (value : Word) (s : State) : Host.Outcome State Fault Refusal :=
  s.upd fun c => c.cmdRegWrite h (R.hbcWays die) value
/-- A write to MEM_CACHE_RANGE_r (R219). -/
def execCacheRangeWrite (h : Hdr) (sett range : Nat) (value : Word) (s : State) : Host.Outcome State Fault Refusal :=
  s.upd fun c => c.cmdRegWrite h (R.memCacheRange sett range) value
/-- A write to TID_SYNC_CTRL (R231). -/
def execArm (h : Hdr) (value : Word) (s : State) : Host.Outcome State Fault Refusal :=
  s.upd fun c => c.cmdRegWrite h R.tidSyncCtrl value
/-- A write to SEQ_STEP_LOAD_b (R282). -/
def execStepLoad (h : Hdr) (basin : Nat) (value : Word) (s : State) : Host.Outcome State Fault Refusal :=
  s.upd fun c => c.cmdRegWrite h (R.seqStepLoad basin) value
/-- A write to SEQ_DVOR_BASE_b, or to SEQ_DVOR_RING_b where `ring` (R289). -/
def execDvorRingWrite (h : Hdr) (basin : Nat) (ring : Bool) (value : Word) (s : State) : Host.Outcome State Fault Refusal :=
  s.upd fun c => c.cmdRegWrite h (if ring then R.seqDvorRing basin else R.seqDvorBase basin) value
/-- A write to CHK_STATE_LOAD (R225). -/
def execChkStateLoad (h : Hdr) (core : Nat) (value : Word) (s : State) : Host.Outcome State Fault Refusal :=
  s.upd fun c => c.cmdRegWrite h (R.chkStateLoad core) value
/-- A write to SEQ_MOOR_BASE_b_r, or to SEQ_MOOR_LEN_b_r where `len` (R352). -/
def execMoorDeclare (h : Hdr) (basin region : Nat) (len : Bool) (value : Word) (s : State) :
    Host.Outcome State Fault Refusal :=
  s.upd fun c => c.cmdRegWrite h (if len then R.seqMoorLen basin region else R.seqMoorBase basin region) value
/-- A write to LNK_TOPO (R302). -/
def execLnkTopoWrite (h : Hdr) (die : Nat) (value : Word) (s : State) : Host.Outcome State Fault Refusal :=
  s.upd fun c => c.cmdRegWrite h (R.lnkTopo die) value
/-- A write to LNK_COPY_CTRL (R319). -/
def execPush (h : Hdr) (die : Nat) (value : Word) (s : State) : Host.Outcome State Fault Refusal :=
  s.upd fun c => c.cmdRegWrite h (R.lnkCopyCtrl die) value
/-- A write to QUA_PHY (R374). -/
def execPortModeChange (h : Hdr) (value : Word) (s : State) : Host.Outcome State Fault Refusal :=
  s.upd fun c => c.cmdRegWrite h R.quaPhy value

/-! ### Memory commands (R398) -/

/-- MEM_WRITE. -/
def execMemWrite (h : Hdr) (addr : Nat) (data : List Byte) (s : State) : Host.Outcome State Fault Refusal :=
  s.upd fun c => c.cmdMemWrite h addr data
/-- MEM_READ. -/
def execMemRead (h : Hdr) (addr len : Nat) (s : State) : Host.Outcome State Fault Refusal :=
  s.upd fun c => c.cmdMemRead h addr len
/-- MEM_FILL. -/
def execMemFill (h : Hdr) (addr len : Nat) (pattern : Word) (s : State) : Host.Outcome State Fault Refusal :=
  s.upd fun c => c.cmdMemFill h addr len pattern
/-- MEM_DIGEST. -/
def execMemDigest (h : Hdr) (addr len poly : Nat) (s : State) : Host.Outcome State Fault Refusal :=
  s.upd fun c => c.cmdMemDigest h addr len poly

/-! ### Programs and steps (R399 to R402) -/

/-- PROG_LOAD (R400). -/
def execProgLoad (h : Hdr) (slot src len : Nat) (s : State) : Host.Outcome State Fault Refusal :=
  s.upd fun c => c.cmdProgLoad h slot src len
/-- PROG_BIND (R401). -/
def execProgBind (h : Hdr) (slot mode : Nat) (s : State) : Host.Outcome State Fault Refusal :=
  s.upd fun c => c.cmdProgBind h slot mode
/-- LAUNCH_AT_TIDE (R262, R263). -/
def execLaunchAtTide (h : Hdr) (t : Nat) (s : State) : Host.Outcome State Fault Refusal :=
  s.upd fun c => c.cmdLaunchAtTide h t
/-- The launch itself (R263, R265). -/
def execLaunch (basin : Nat) (s : State) : Host.Outcome State Fault Refusal := s.upd fun c => c.launchAt basin
/-- STEP_COMMIT (R354 to R357). -/
def execStepCommit (h : Hdr) (s : State) : Host.Outcome State Fault Refusal := s.upd fun c => c.cmdStepCommit h
/-- A pending STEP_COMMIT evaluates (R355). -/
def execGateEvaluation (basin : Nat) (s : State) : Host.Outcome State Fault Refusal := s.upd fun c => c.gateEvaluationAt basin
/-- STEP_DISCARD (R359). -/
def execStepDiscard (h : Hdr) (s : State) : Host.Outcome State Fault Refusal := s.upd fun c => c.cmdStepDiscard h
/-- PREEMPT (R272). -/
def execPreempt (h : Hdr) (s : State) : Host.Outcome State Fault Refusal := s.upd fun c => c.cmdPreempt h
/-- A pre-empted basin has stopped (R272). -/
def execBasinPreempted (basin : Nat) (s : State) : Host.Outcome State Fault Refusal := s.upd fun c => c.basinPreemptedAt basin

/-! ### Fabric, integrity and drain commands -/

/-- FABRIC_CONFIG (R302, R403). -/
def execFabricConfig (h : Hdr) (topo : Word) (mask : Nat) (groups : List Nat) (s : State) : Host.Outcome State Fault Refusal :=
  s.upd fun c => c.cmdFabricConfig h topo mask groups
/-- SLOT_TABLE_LOAD (R317, R403). -/
def execSlotTableLoad (h : Hdr) (mask : Nat) (entries : List Byte) (s : State) : Host.Outcome State Fault Refusal :=
  s.upd fun c => c.cmdSlotTableLoad h mask entries
/-- BARRIER_CONFIG (R343, R403). -/
def execBarrierConfig (h : Hdr) (id group lbar latency : Nat) (s : State) : Host.Outcome State Fault Refusal :=
  s.upd fun c => c.cmdBarrierConfig h id group lbar latency
/-- RANK_ASSIGN (R321, R403). -/
def execRankAssign (h : Hdr) (rank ebbGroup : Nat) (entries : List Nat) (s : State) : Host.Outcome State Fault Refusal :=
  s.upd fun c => c.cmdRankAssign h rank ebbGroup entries
/-- INT_STATUS (R371). -/
def execIntStatus (h : Hdr) (s : State) : Host.Outcome State Fault Refusal := s.upd fun c => c.cmdIntStatus h
/-- DRAIN (R366, R367). -/
def execDrain (h : Hdr) (mode : Nat) (replace : Nat) (s : State) : Host.Outcome State Fault Refusal :=
  s.upd fun c => c.cmdDrain h mode replace
/-- The package enters DRAIN (R365, R366). -/
def execDrainEnter (s : State) : Host.Outcome State Fault Refusal := s.upd fun c => c.drainEnterAt
/-- ADJUDICATION_LOG (R109). -/
def execAdjudicationLog (h : Hdr) (s : State) : Host.Outcome State Fault Refusal := s.upd fun c => c.cmdAdjudicationLog h
/-- REPLICA_DIGEST (R361). -/
def execReplicaDigest (h : Hdr) (mode region base len : Nat) (s : State) : Host.Outcome State Fault Refusal :=
  s.upd fun c => c.cmdReplicaDigest h mode region base len

end Sys2Proof.Machine
end

