-- ==== Sys2Proof/Machine/CoreRows.lean ====
section
/-! DEFINITION. Meanings of the events of a core's schedule: bundles, ebbs, holds and adjudications (07_tide, R105, R337). -/

namespace Sys2Proof.Machine
open Sys2Proof

/-- A bundle issues (R242 to R248). -/
def execBundle (core : Nat) (s : State) : Host.Outcome State Fault Refusal := s.upd fun c => c.bundleAt core
/-- A bundle is not in the queue at its issue cycle (R242). -/
def execFetchLate (core edges : Nat) (s : State) : Host.Outcome State Fault Refusal := s.upd fun c => c.fetchLateAt core edges
/-- A barrier releases (R267). -/
def execBarrierRelease (basin : Nat) (s : State) : Host.Outcome State Fault Refusal := s.upd fun c => c.releaseBarrier basin
/-- A hold is longer than TID_BARRIER_TIMEOUT (R268). -/
def execBarrierTimeout (core : Nat) (s : State) : Host.Outcome State Fault Refusal := s.upd fun c => c.holdTimeout core
/-- A hold is longer than its budget (R268). -/
def execBarOver (core : Nat) (s : State) : Host.Outcome State Fault Refusal := s.upd fun c => c.holdOver core
/-- A collective is late (R337). -/
def execFabricLate (core edges : Nat) (s : State) : Host.Outcome State Fault Refusal := s.upd fun c => c.fabricLateAt core edges
/-- A collective's time is up (R339): RED_TIMEOUT after its issue. -/
def execCollTimeout (basin index : Nat) (s : State) : Host.Outcome State Fault Refusal :=
  s.upd fun c => match c.coll basin index with
    | some k =>
      let us := max 1 (c.regField (R.redTimeout (c.redAt basin)) 0 32)
      if c.collMet basin k then c
      else ((c.passTo (k.tick + 1000 * us)).collTimedOut basin index).endLate basin k.core
    | none => c
/-- The tick of a TIDE_WAIT comes (R270). -/
def execTideWaitRelease (core : Nat) (s : State) : Host.Outcome State Fault Refusal := s.upd fun c => c.releaseTide core
/-- A schedule is complete (R248). -/
def execScheduleComplete (basin : Nat) (s : State) : Host.Outcome State Fault Refusal :=
  s.upd fun c => c.scheduleCompleteAt basin
/-- A failed block is adjudicated (R105 to R109). -/
def execAdjudication (core : Nat) (s : State) : Host.Outcome State Fault Refusal := s.upd fun c => c.adjudicateAt core
/-- A stream or feed deadline is not met (R214, R215). -/
def execStreamLate (core engine obligation row edges : Nat) (s : State) : Host.Outcome State Fault Refusal :=
  s.upd fun c => c.streamLateAt core engine obligation row edges
/-- A scan is not finished (R226). -/
def execChkLate (core edges : Nat) (s : State) : Host.Outcome State Fault Refusal := s.upd fun c => c.chkLateAt core edges
/-- An ebb ends (R257, R260, R261). -/
def execEbbPass (core : Nat) (s : State) : Host.Outcome State Fault Refusal := s.upd fun c => c.passEbb core

end Sys2Proof.Machine
end

