-- ==== Sys2Proof/Machine/Pilot.lean ====
section
/-! DEFINITION. The pilot after boot: identity and attestation (R430 to R432), the life cycle (R433 to R439), management reports
(R370, R442 to R445) and the I²C target (R441). -/

namespace Sys2Proof.Machine
open Sys2Proof

namespace Chip

/-! ### Identity (R418, R431, R432) -/

/-- A die record (Table 12.3). -/
def dieRecord (c : Chip) (d : Nat) : List Byte :=
  let x := c.die d
  sliceB x.lot 0 7 ++ toLE 1 x.wafer ++ toLE 1 x.x ++ toLE 1 x.y ++ toLE 1 x.stepping ++ toLE 1 (dieType d) ++ toLE 4 x.crc

def dieRecords (c : Chip) : List Byte := (List.range 40).flatMap c.dieRecord
def serial (c : Chip) : List Byte := sliceB c.fuses.serial 0 16
/-- The package's stepping: every die has die 0's (R7). -/
def stepping (c : Chip) : Nat := (c.die 0).stepping
def life (c : Chip) : Nat := lifeState c.fuses

/-- Registers that hold a byte string, as bytes. -/
def regBytes (c : Chip) (base n : Nat) : List Byte := (List.range n).flatMap fun w => toLE 8 (c.reg (base + 8 * w)).toNat

/-- The identity record (Table 12.8). -/
def identityRecord (c : Chip) : List Byte :=
  c.serial ++ sliceB (ascii (if c.stepping = 2 then "OQ2040-B0-L" else "OQ2040-A1-L")) 0 16 ++ toLE 1 c.stepping ++ toLE 1 c.life ++
    toLE 1 c.fuses.replacements ++ toLE 1 c.fuses.entries ++ toLE 1 c.fuses.svnMin ++ toLE 3 0 ++ toLE 6 c.fuses.mac ++ toLE 2 0 ++
    c.dieRecords ++ c.edPublic ++ c.mlPublic

/-- The signed region of an attestation report (Table 12.9). -/
def attestRegion (c : Chip) (nonce : List Byte) : List Byte :=
  let img := c.reg R.pltImage
  let loaded := condBits ((List.range 8).map fun s => c.regField (R.seqProg s) 0 1 == 1)
  toLE 4 0x5441514F ++ toLE 1 1 ++ toLE 1 c.life ++ toLE 1 c.stepping ++
    toLE 1 (c.regField R.secStatus 1 1 + 2 * c.regField R.seqDrain 3 1) ++ toLE 8 c.pilot.bootId ++ toLE 8 c.tide ++ c.serial ++
    sliceB nonce 0 32 ++ toLE 1 (fget img 0 7) ++ toLE 1 (fget img 8 4) ++ toLE 1 c.fuses.entries ++ toLE 1 c.fuses.replacements ++
    toLE 1 c.basinCount ++ toLE 1 loaded ++ toLE 2 0 ++ c.regBytes (R.pltImageDigest 0) 6 ++ c.regBytes (R.pltConfigDigest 0) 6 ++
    c.reportPublic ++ toLE 8 (c.reg R.seqDrain).toNat ++ toLE 8 0 ++ c.regBytes (R.seqProgHash 0) 8 ++ c.dieRecords

/-- The attestation report, signed by both identity keys (R432). -/
def attestReport (c : Chip) (nonce : List Byte) : List Byte :=
  let r := c.attestRegion nonce
  let msg := ascii "OQ2040-ATTEST-01" ++ r
  r ++ sliceB (Config.ed25519Sign c.edSeed msg) 0 64 ++ sliceB (Config.mldsaSign c.mlSeed msg) 0 3309 ++ toLE 3 0

def trngOk (c : Chip) : Bool := c.regField R.secStatus 3 1 == 1

def cmdAttest (c : Chip) (h : Hdr) (nonce : List Byte) : Chip :=
  c.answer h 0x0601 .package false fun c =>
    if nonce.length ≠ 32 || !c.replyFits h.flow 4304 then .fail .badParam
    else if !c.trngOk then .fail .notInState
    else .pend fun c => (c, some (.ok, c.attestReport nonce))

def cmdIdentityRead (c : Chip) (h : Hdr) : Chip :=
  c.answer h 0x0602 .package true fun c => .done c .ok c.identityRecord

/-! ### The life cycle (R434 to R438) -/

/-- Whether a life-cycle token is well formed: step 5 of R391 (Table 12.12); who may authorise it is step 8's (log entry 42, DEDUCED). -/
def tokenOk (t : List Byte) : Bool :=
  let target := leAt t 0 1
  let action := leAt t 1 1
  let slot := leAt t 2 1
  let hashes := action = 1 || (action = 0 && target = 2)
  t.length == 5520 && decide (1 ≤ target) && decide (target ≤ 5) && decide (action ≤ 2) &&
    (if action = 0 then slot == 0 else decide (slot ≤ 3)) && zeros t 3 5 && (hashes || zeros t 0x38 96) &&
    zeros t 0x99 7 && zeros t 0x158D 3

/-- Key slots that are programmed and not revoked. -/
def liveSlots (f : Fuses) : List Nat :=
  (List.range 4).filter fun s => let k := f.slots.getD s KeySlot.reset; k.programmed && !k.revoked

/-- Whether Table 12.11 has an action from the present state. -/
def actionAllowed (f : Fuses) (target action slot : Nat) : Bool :=
  let s := lifeState f
  match action with
  | 0 => (s == 1 && (target == 2 || target == 5)) || (s == 2 && (target == 3 || target == 5)) || (s == 3 && target == 5) ||
      ((s == 2 || s == 3) && target == 4 && decide (f.entries < 16)) || (s == 4 && (target == 3 || target == 5))
  | 1 => (s == 2 || s == 3) && target == s
  | _ => (s == 2 || s == 3) && target == s && (liveSlots f).any fun x => x != slot

/-- Whether `auth` may authorise an action from the present state (Table 12.11). -/
def authAllowed (f : Fuses) (action slot auth : Nat) : Bool :=
  if lifeState f = 1 then auth == 0xF
  else (liveSlots f).contains auth && (action == 0 || auth != slot)

/-- Bytes with every bit of two strings blown. -/
def orBytes (a b : List Byte) : List Byte := tabulate 48 fun i => a.getD i 0 ||| b.getD i 0

/-- Program a key slot: the hash pair, then the programmed bit. -/
def blowSlot (f : Fuses) (slot : Nat) (ed ml : List Byte) : Fuses :=
  { f with slots := modifyAt f.slots slot fun k => { k with ed := orBytes k.ed ed, ml := orBytes k.ml ml, programmed := true } }

/-- The fuses after an authorised action (Table 12.11). -/
def blow (f : Fuses) (t : List Byte) : Fuses :=
  let target := leAt t 0 1
  let slot := leAt t 2 1
  let ed := sliceB t 0x38 48
  let ml := sliceB t 0x68 48
  match leAt t 1 1 with
  | 0 =>
    match target with
    | 2 => { blowSlot f 0 ed ml with provisioned := true }
    | 3 => if lifeState f = 4 then { f with deployed := true, exits := f.exits + 1 } else { f with deployed := true }
    | 4 => { f with entries := f.entries + 1 }
    | 5 => { f with retired := true, seedKilled := true }
    | _ => f
  | 1 => blowSlot f slot ed ml
  | _ => { f with slots := modifyAt f.slots slot fun k => { k with revoked := true } }

/-- Step 8 of R391 for a token: serial, nonce, slot, key hashes and both signatures (R436). -/
def tokenAuthentic (c : Chip) (t : List Byte) : Bool :=
  let auth := leAt t 0x98 1
  let k := c.fuses.slots.getD auth KeySlot.reset
  let edPub := sliceB t 0xA0 32
  let mlPub := sliceB t 0xC0 1952
  let msg := ascii "OQ2040-LCTOKEN01" ++ sliceB t 0 0xA0
  sliceB t 0x28 16 == c.serial && sliceB t 8 32 == c.regBytes (R.pltNonce 0) 4 &&
    authAllowed c.fuses (leAt t 1 1) (leAt t 2 1) auth &&
    Config.sha384 edPub == (if auth = 0xF then Config.romHashEd else k.ed) &&
    Config.sha384 mlPub == (if auth = 0xF then Config.romHashMl else k.ml) &&
    Config.ed25519Verify edPub msg (sliceB t 0x860 64) && Config.mldsaVerify mlPub msg (sliceB t 0x8A0 3309)

/-- Every basin in READY with no program bound and no undecided step, or the package in DRAIN (R436). -/
def lifecycleReady (c : Chip) : Bool := c.dev == .drain || (!c.anyRun && !c.anyBound && !c.anyUndecided)

/-- An AUTH_FAIL reply of LIFECYCLE_SET is counted (R436, Table 12.23). -/
def authFailed (c : Chip) : Chip :=
  let c := (c.event R.pltEvents 0).addField R.secStatus 32 32 1
  { c with pilot := { c.pilot with failRun := c.pilot.failRun + 1 } }

/-- LIFECYCLE_SET: after eight AUTH_FAIL replies in a row every later one is answered so, whatever its token (R436) (log entry 42,
DEDUCED). -/
def cmdLifecycleSet (c : Chip) (h : Hdr) (t nonce : List Byte) : Chip :=
  c.answer h 0x0603 .package false fun c =>
    let state := actionAllowed c.fuses (leAt t 0 1) (leAt t 1 1) (leAt t 2 1) && c.lifecycleReady
    if 8 ≤ c.pilot.failRun then
      .done (if tokenOk t && state && !c.fullPending then c.putBytes (R.pltNonce 0) 4 nonce else c).authFailed .authFail []
    else if !tokenOk t then .fail .badParam
    else if !state then .fail .notInState
    else if c.fullPending then .fail .busy
    else
      if !c.tokenAuthentic t then .done ((c.putBytes (R.pltNonce 0) 4 nonce).authFailed) .authFail []
      else .pend fun c =>
        let old := c.life
        let c := c.putBytes (R.pltNonce 0) 4 nonce
        let c := { c with fuses := blow c.fuses t, pilot := { c.pilot with failRun := 0 } }
        if c.life = old then (c, some (.ok, [])) else (c.beginWipe 1, none)

/-- The pilot blows the next replacement position (R439). -/
def blowReplacement (c : Chip) : Chip :=
  if c.regField R.seqDrain 3 1 = 1 && !c.pilot.replBlown && c.dev != .off && c.dev != .boot then
    { c with fuses := { c.fuses with replacements := min 8 (c.fuses.replacements + 1) },
             pilot := { c.pilot with replBlown := true } }
  else c

/-! ### Management reports (R370, R442 to R445) -/

/-- The report header (Table 12.14). -/
def reportHeader (c : Chip) (type n : Nat) : List Byte :=
  toLE 4 0x5052514F ++ toLE 1 1 ++ toLE 1 type ++ toLE 2 n ++ toLE 8 c.pilot.bootId ++ toLE 8 c.pilot.seq ++
    toLE 8 (if c.tideRuns then c.tide else 0) ++ toLE 4 (c.pilot.sinceGood / 1000000) ++ toLE 1 c.life ++ toLE 1 c.devCode ++ toLE 2 0 ++
    c.serial

def mgmtUp (c : Chip) : Bool := c.regField R.pltMgmt 0 1 == 1 && c.regField R.pltMgmt 2 1 == 1

/-- The frame of a report (R377, R384, R442): untagged, to the management station. -/
def mgmtFrame (c : Chip) (bytes : List Byte) : Frame :=
  let two (lo hi : Nat) : Nat := (c.reg lo).toNat + (c.reg hi).toNat * 2 ^ 64
  let src := two R.pltMgmtSrcLo R.pltMgmtSrcHi
  let dst := two R.pltMgmtDestLo R.pltMgmtDestHi
  let p := c.regField R.pltMgmt 8 16
  { dstMac := none, srcMac := c.fuses.mac + 1, tag := none, src := src, dst := dst, ttl := 64,
    dontFragment := dst / 2 ^ 32 = 0xFFFF, ecn := 2, srcPort := p, dstPort := p, udpSum := udpChecksum src dst p p bytes }

/-- A report falls due (R443, R444): signed and sent, or dropped while the port is down; none once the TRNG has failed (log entry
42, DEDUCED). -/
def sendReport (c : Chip) (type : Nat) (body : List Byte) : Chip :=
  if !c.trngOk then c
  else
    let m := c.reportHeader type body.length ++ body
    let sig := sliceB (Config.ed25519Sign c.pilot.reportSeed (ascii "OQ2040-REPORT-01" ++ m)) 0 64
    let c' : Chip := { c with pilot := { c.pilot with seq := c.pilot.seq + 1 } }
    if !c.mgmtUp then c'.event R.pltEvents 2
    else
      let c' := c'.out (.report (c.mgmtFrame (m ++ sig)) (m ++ sig))
      if c.tideRuns then c'.addField R.pltMgmtCount 0 32 1 else c'

/-- Whether the management port reports at all: past stage VERIFY (R415). -/
def reporting (c : Chip) : Bool := c.dev != .off && c.pilot.image.verified

/-- The body of a KEY report: the report public key, signed by the identity key (R445, Table 12.15); zeros for the signature once no key
can be derived (R438) (log entry 42, DEDUCED). -/
def keyBody (c : Chip) : List Byte :=
  let pub := c.reportPublic
  if c.fuses.seedKilled || !c.haveKeys then pub ++ List.replicate 64 0
  else pub ++ sliceB (Config.ed25519Sign c.edSeed (ascii "OQ2040-REPKEY-01" ++ toLE 8 c.pilot.bootId ++ pub ++ c.serial)) 0 64

/-- A KEY report leaves. -/
def sendKey (c : Chip) : Chip :=
  let c := c.sendReport 3 c.keyBody
  { c with pilot := { c.pilot with keyAt := some c.pilot.sinceGood } }

/-- A KEY report is the first after stage VERIFY: it leaves ahead of any other (R445). -/
def keyFirst (c : Chip) : Chip := if c.pilot.keyAt.isNone then c.sendKey else c

/-- The body of a BOOT report (Table 12.15). -/
def bootBody (c : Chip) : List Byte :=
  let st := c.reg R.pltBootStatus
  toLE 1 (fget st 0 4) ++ toLE 1 (fget st 8 8) ++ toLE 1 (fget st 16 6) ++ toLE 1 0 ++ toLE 4 (fget st 32 32)

/-- A BOOT report leaves. -/
def sendBoot (c : Chip) : Chip :=
  let c := c.keyFirst.sendReport 4 c.bootBody
  { c with pilot := { c.pilot with bootAt := some c.pilot.sinceGood } }

/-- Time passes to a span of `n` boot-timer ticks after the latest report of a kind; none has left yet: at once. -/
def passSince (c : Chip) (last : Option Nat) (n : Nat) : Chip :=
  match last with
  | some t => c.pass (t + n - c.pilot.sinceGood)
  | none => c

/-- A BOOT report, once per second after a halt past VERIFY (R416). -/
def bootReportAt (c : Chip) : Chip :=
  if !(c.reporting && c.dev == .boot && c.pilot.halted) then c else (c.passSince c.pilot.bootAt 1000000000).sendBoot

/-- A KEY report: first after VERIFY, then every 10 s (R445). -/
def keyReportAt (c : Chip) : Chip := if !c.reporting then c else (c.passSince c.pilot.keyAt 10000000000).sendKey

/-- What a count has grown by since the previous TELEMETRY. -/
def grown (old : Int) (new : Nat) : Nat := ((new : Int) - old).toNat

/-- The first of the hottest logic dies. -/
def hottestDie (r : Readings) : Nat := r.logic.idxOf (hottest r.logic)

/-- A TELEMETRY body (Table 12.15). -/
def telemetryBody (c : Chip) (r : Readings) : List Byte :=
  let per (f : Nat → Nat) : List Nat := tabulate 4 fun b => if b < c.basinCount then f b else 0
  toLE 1 c.op ++ toLE 1 c.level ++ toLE 1 c.thermalClass ++ toLE 1 c.basinCount ++ toLE 2 r.power ++ toLE 2 r.vin ++
    toLE 1 (hottest r.logic) ++ toLE 1 (hottest r.dram) ++ toLE 1 (hottestDie r) ++ toLE 1 (c.regField R.seqDrain 0 4) ++
    (tabulate 4 c.basinState).flatMap (toLE 1) ++ (per fun b => (c.reg (R.seqStep b)).toNat).flatMap (toLE 8) ++
    toLE 4 (grown c.pilot.telEbbs c.ebbsLogged) ++ toLE 4 (grown c.pilot.telCorr c.linesCorrected) ++
    toLE 4 (grown c.pilot.telRetries c.linkRetries) ++ toLE 4 (grown c.pilot.telHolds c.pilot.holds)

/-- Ticks to the next multiple of a period, none at one not yet served. -/
def dueIn (now period : Nat) (last : Option Nat) : Nat :=
  if now % period = 0 && last ≠ some now then 0 else period - now % period

/-- The count TELEMETRY goes by: the tide count or, before READY, the boot timer (R444). -/
def epochTime (c : Chip) : Nat := if c.tideRuns then c.tide else c.pilot.sinceGood

/-- A TELEMETRY report leaves, and the counts it reports as differences start anew. -/
def sendTelemetry (c : Chip) (r : Readings) : Chip :=
  let c := c.takeReadings r
  let c' := c.keyFirst.sendReport 1 (c.telemetryBody r)
  { c' with pilot := { c'.pilot with telAt := some c.epochTime, telEbbs := c.ebbsLogged, telCorr := c.linesCorrected,
                                     telRetries := c.linkRetries, telHolds := c.pilot.holds } }

/-- A TELEMETRY report, at the next multiple of epoch_ms, in a halted boot too (R444) (log entry 42, DEDUCED). -/
def telemetryAt (c : Chip) (r : Readings) : Chip :=
  let period := c.regField R.pltMgmt 32 32 * 1000000
  if !c.reporting || period = 0 then c
  else (c.pass (dueIn c.epochTime period c.pilot.telAt)).sendTelemetry r

/-- Event codes of Table 10.14. -/
def reportCode (code : Nat) : Bool := (1 ≤ code && code ≤ 0xE) || (0x10 ≤ code && code ≤ 0x1A)

/-- The rate record of a pair of code and die (R370). -/
def rateOf (c : Chip) (code die : Nat) : Option RateRec := c.pilot.rates.find? fun r => r.code == code && r.die == die

/-- The rate record of a pair takes a new value. -/
def setRate (c : Chip) (r : RateRec) : Chip :=
  { c with pilot := { c.pilot with rates := r :: c.pilot.rates.filter fun x => !(x.code == r.code && x.die == r.die) } }

/-- One more event of a pair within 10 ms of its latest report: counted (R370). -/
def suppressError (c : Chip) (r : RateRec) : Chip :=
  (c.setRate { r with suppressed := r.suppressed + 1 }).addField R.pltMgmtCount 32 32 1

/-- An ERROR report leaves with the events of its pair suppressed since the previous one (R370, Table 12.15). -/
def sendError (c : Chip) (code die block basin sup : Nat) (record : Word) : Chip :=
  (c.keyFirst.sendReport 2 (toLE 1 code ++ toLE 1 die ++ toLE 1 block ++ toLE 1 basin ++ toLE 4 sup ++ toLE 8 record.toNat ++
    toLE 8 (if basin < c.basinCount then (c.reg (R.seqStep basin)).toNat else 0))).setRate
      { code := code, die := die, tick := c.tide, suppressed := 0 }

/-- The pilot reports on a copy it has received (R370): an ERROR report, or one more suppressed event of its code and die. -/
def errorReportAt (c : Chip) (code die block basin : Nat) (record : Word) : Chip :=
  let x : RecCopy := { code := code, die := die, block := block, basin := basin, value := record }
  if !(c.reporting && c.dev != .boot && c.dev != .wipe && reportCode code && c.pilot.copies.contains x) then c
  else
    let c := { c with pilot := { c.pilot with copies := c.pilot.copies.erase x } }
    match c.rateOf code die with
    | some r =>
      if c.tide < r.tick + 10000000 then c.suppressError r else c.sendError code die block basin r.suppressed record
    | none => c.sendError code die block basin 0 record

/-! ### The I²C target (R441) -/

/-- The address that the I²C target answers to, by ADDR_SEL as sampled at power good (R441, R449). -/
def i2cAddress (c : Chip) : Nat := if c.pins.addrSel then 0x4D else 0x4C

/-- Whether fuse values are read from outside: from the end of stage FUSE, a halted boot included (R440, R441). -/
def fusesServed (c : Chip) : Bool := c.dev != .off && (c.pilot.halted || (c.pilot.stage != .none && c.pilot.stage != .fuse))

/-- The multi-byte and single fields of Table 12.13 as (offset, bytes). -/
def i2cFields (c : Chip) : List (Nat × List Byte) :=
  let temps := (List.range 5).flatMap fun i => tabulate 8 fun j => c.regField (R.pwrTemp i) (8 * j) 8
  [(0x00, toLE 8 (c.reg R.pltBootStatus).toNat), (0x08, toLE 1 c.devCode), (0x09, toLE 1 c.life),
   (0x0A, toLE 1 (c.regField R.seqDrain 0 4)), (0x0B, toLE 1 c.fuses.replacements), (0x10, c.serial), (0x20, toLE 1 (hottest temps)),
   (0x21, toLE 1 (hottest (tabulate 20 fun s => c.regField (R.memStatus s) 24 8))), (0x22, toLE 2 (c.regField R.pwrStatus 0 16)),
   (0x24, toLE 8 (c.regField R.pltMgmtCount 0 32))]

/-- Read one byte at the offset: a field is captured when its first byte is read; other offsets read zero (log entry 37, DEDUCED). -/
def i2cByte (c : Chip) : Chip :=
  let o := c.pilot.i2cOff
  let fields := c.i2cFields
  let got : Byte × List Byte := match c.pilot.i2cCap with
    | b :: t => (b, t)
    | [] => match fields.find? fun f => f.1 ≤ o && o < f.1 + f.2.length with
      | some f => if f.1 = o then (f.2.headD 0, f.2.tail) else (f.2.getD (o - f.1) 0, [])
      | none => (0, [])
  { c with pilot := { c.pilot with i2cOff := (o + 1) % 256, i2cCap := got.2, i2cOut := c.pilot.i2cOut ++ [got.1] } }

end Chip

/-- ATTEST (R432). -/
def execAttest (h : Hdr) (nonce : List Byte) (s : State) : Host.Outcome State Fault Refusal := s.upd fun c => c.cmdAttest h nonce
/-- IDENTITY_READ (R431). -/
def execIdentityRead (h : Hdr) (s : State) : Host.Outcome State Fault Refusal := s.upd fun c => c.cmdIdentityRead h
/-- LIFECYCLE_SET (R435 to R437). -/
def execLifecycleSet (h : Hdr) (token newNonce : List Byte) (s : State) : Host.Outcome State Fault Refusal :=
  s.upd fun c => c.cmdLifecycleSet h token newNonce
/-- WIPE (R426). -/
def execWipe (h : Hdr) (confirm : Nat) (s : State) : Host.Outcome State Fault Refusal := s.upd fun c => c.cmdWipe h confirm
/-- A wipe is complete (R426 to R428). -/
def execWipeComplete (us : Nat) (s : State) : Host.Outcome State Fault Refusal :=
  s.upd fun c => if c.dev == .wipe && !c.pilot.retiredWipe && decide (us ≤ 50000) then c.endWipe us none else c
/-- A die has not reported its wipe (R428). -/
def execWipeIncomplete (die us : Nat) (s : State) : Host.Outcome State Fault Refusal :=
  s.upd fun c => if c.dev == .wipe && !c.pilot.retiredWipe then c.endWipe us (some die)
    else c.atStage .wipe fun c => c.haltBoot 0x23 die
/-- A BOOT report (R416). -/
def execBootReport (s : State) : Host.Outcome State Fault Refusal := s.upd fun c => c.bootReportAt
/-- A KEY report (R445). -/
def execKeyReport (s : State) : Host.Outcome State Fault Refusal := s.upd fun c => c.keyReportAt
/-- A TELEMETRY report (R444). -/
def execTelemetry (r : Readings) (s : State) : Host.Outcome State Fault Refusal := s.upd fun c => c.telemetryAt r
/-- An ERROR report (R370). -/
def execErrorReport (code die block basin : Nat) (record : Word) (s : State) : Host.Outcome State Fault Refusal :=
  s.upd fun c => c.errorReportAt code die block basin record
/-- The TRNG fails its health tests after READY (R430). -/
def execTrngFail (s : State) : Host.Outcome State Fault Refusal :=
  s.upd fun c => if c.tideRuns then c.setField R.secStatus 3 1 0 else c
/-- The next replacement position is blown (R439). -/
def execReplacementBlow (s : State) : Host.Outcome State Fault Refusal := s.upd fun c => c.blowReplacement
/-- An I²C write of one byte to an address (R441). -/
def execI2cWriteOffset (w : I2cAccess) (s : State) : Host.Outcome State Fault Refusal :=
  s.upd fun c => if c.fusesServed && w.addr = c.i2cAddress then { c with pilot := { c.pilot with i2cOff := w.n % 256, i2cCap := [] } } else c
/-- An I²C read at an address (R441). -/
def execI2cRead (r : I2cAccess) (s : State) : Host.Outcome State Fault Refusal :=
  s.upd fun c => if c.fusesServed && r.addr = c.i2cAddress then foldN r.n (fun c _ => c.i2cByte) { c with pilot := { c.pilot with i2cOut := [] } } else c
/-- The management port's link goes down (R444). -/
def execMgmtLinkDown (s : State) : Host.Outcome State Fault Refusal :=
  s.upd fun c => if c.dev == .off then c else c.setField R.pltMgmt 2 1 0
/-- The management port's link comes up (R442). -/
def execMgmtLinkUp (s : State) : Host.Outcome State Fault Refusal :=
  s.upd fun c => if c.reporting && c.regField R.pltMgmt 0 1 == 1 then c.setField R.pltMgmt 2 1 1 else c

end Sys2Proof.Machine
end

