-- ==== Sys2Proof/Machine/Quay.lean ====
section
/-! DEFINITION. The quay port (R373 to R378), the Quayline transport (R379 to R384), host reads and writes (R385 to R388), the
command packet (R389 to R391), heartbeat, silence and crossing queues (R405 to R410). -/

namespace Sys2Proof.Machine
open Sys2Proof

/-- How far a packet sequence number lies beyond another, modulo 2^32. -/
def psnAhead (a b : Nat) : Nat := (a + 2 ^ 32 - b) % 2 ^ 32

/-- Whether a cumulative acknowledgement covers a psn. -/
def ackCovers (ack psn : Nat) : Bool := decide (1 ≤ psnAhead ack psn) && decide (psnAhead ack psn ≤ 2 ^ 31)

/-- Whether an ACK's bitmap covers a psn: bit i stands for psn ack + 1 + i (Table 11.3). -/
def bitmapCovers (ack : Nat) (bitmap : Nat) (psn : Nat) : Bool :=
  let d := psnAhead psn ((ack + 1) % 2 ^ 32)
  decide (d < 256) && bits bitmap d 1 == 1

/-- The Quayline header (Table 11.2). -/
structure QHdr where
  type : Nat
  flow : Nat
  flags : Nat
  version : Nat
  psn : Nat
  ack : Nat
  session : Nat
  length : Nat
  deriving DecidableEq, Repr

def QHdr.parse (l : List Byte) : QHdr :=
  { type := leAt l 0 1, flow := leAt l 1 1, flags := leAt l 2 1, version := leAt l 3 1, psn := leAt l 4 4, ack := leAt l 8 4,
    session := leAt l 12 4, length := leAt l 16 2 }

/-- Payload of a datagram. -/
def qPayload (d : Dgram) : List Byte := d.bytes.drop 24

/-- Whether a command packet's CRC-32C is right, at its last four bytes (R389). -/
def cmdCrcOk (p : List Byte) : Bool := decide (36 ≤ p.length) && leAt p (p.length - 4) 4 == crc32c (p.take (p.length - 4))

/-- Whether step 1 of R391 passes a request (Table 11.4). -/
def cmdHeaderOk (p : List Byte) : Bool :=
  let n := leAt p 0x10 4
  leAt p 0 4 == 0x444D4351 && leAt p 4 1 == 1 && decide (leAt p 5 1 < 2) && leAt p 0xD 3 == 0 && n + 36 == p.length && n % 4 == 0 &&
    decide (n ≤ 8224) && leAt p 0x14 12 == 0

namespace Chip

/-! ### Frames and peers (R375 to R378) -/

def portLive (c : Chip) : Bool := c.dev != .off && c.dev != .boot && c.regField R.quaPhy 2 1 == 1

/-- Frame checks that set frame_drop (R375, R376). -/
def frameBad (c : Chip) (d : Dgram) : Bool :=
  let net := R.quaNet
  decide (c.regField net 0 14 < d.frameLen) || !d.fcsOk ||
    (if c.regField net 14 1 = 1 then d.vlan != some (c.regField net 15 12) else d.vlan.isSome)

/-- Whether the address family of a datagram is configured (R377). -/
def familyOn (c : Chip) (d : Dgram) : Bool :=
  if d.ipv6 then c.reg R.quaIp6Lo != 0 || c.reg R.quaIp6Hi != 0 else c.reg R.quaIp4 != 0

/-- An IPv6 address's solicited-node multicast MAC address: 33:33:FF and its low 24 bits (R377). -/
def solicitedMac (a : Nat) : Nat := 0x3333FF000000 + a % 2 ^ 24

/-- Whether a frame's destination addresses are the package's own (R377). -/
def forUs (c : Chip) (d : Dgram) : Bool :=
  let ip6 := (c.reg R.quaIp6Lo).toNat + (c.reg R.quaIp6Hi).toNat * 2 ^ 64
  (d.dstMac == c.fuses.mac || d.dstMac == 2 ^ 48 - 1 || (ip6 != 0 && d.dstMac == solicitedMac ip6)) &&
    d.dstAddr == (if d.ipv6 then ip6 else 0xFFFF * 2 ^ 32 + c.regField R.quaIp4 0 32)

/-- The enabled peer entry that holds an address (R378). -/
def peerOf (c : Chip) (addr : Nat) : Option Nat :=
  (List.range 4).find? fun i => c.regField R.quaNet (48 + i) 1 = 1 &&
    (c.reg (R.quaPeerLo i)).toNat + (c.reg (R.quaPeerHi i)).toNat * 2 ^ 64 = addr

/-- A datagram from the address bound to flow 0 restarts the silence count (R407). -/
def heard (c : Chip) (addr : Nat) : Chip :=
  let f := c.flow 0
  if f.state ≠ 0 && f.peerAddr = addr then { c with quay := { c.quay with silence := 0, silent := false } } else c

/-- The forward error correction of the lanes that brought a frame: its codewords corrected and not (R373, Table 11.20). -/
def noteFec (c : Chip) (d : Dgram) : Chip :=
  ((c.addField R.quaFec 0 32 d.fecFixed).addField R.quaFec 32 32 d.fecLost).events R.quaEvents 9 d.fecLost

/-- A datagram passes the frame, IP, UDP and peer checks: its peer entry; none where it is dropped (R375 to R378). -/
def admitDgram (c : Chip) (d : Dgram) : Chip × Option Nat :=
  if !c.portLive then (c, none) else
  let c := c.noteFec d
  if c.frameBad d then (c.event R.quaEvents 7, none)
  else if d.frameLen < 64 || !d.headersOk || !c.familyOn d || !c.forUs d || d.dstPort ≠ c.regField R.quaNet 32 16 then (c, none)
  else match c.peerOf d.srcAddr with
    | none => (c.event R.quaEvents 1, none)
    | some i => (c.heard d.srcAddr, some i)

/-- The Quayline header of a datagram of a type; none where R379 drops it. -/
def quayHdr (d : Dgram) (type : Nat) : Option QHdr :=
  let q := QHdr.parse d.bytes
  if d.bytes.length < 24 || q.version ≠ 1 || q.type ≠ type || 15 < q.flow || q.length + 24 ≠ d.bytes.length then none else some q

def countRx (c : Chip) : Chip := c.addField R.quaPkts 0 32 1

/-! ### Acknowledgements (R383, R384) -/

/-- Send what waits for send space. -/
def drainBacklog : Nat → Chip → Nat → Chip
  | 0, c, _ => c
  | fuel + 1, c, f =>
    let fl := c.flow f
    match fl.backlog with
    | [] => c
    | (t, p) :: rest =>
      if fl.state = 1 && fl.unacked.length < min 256 fl.window then
        drainBacklog fuel ((c.setFlow f fun x => { x with backlog := rest }).sendNow f t p) f
      else c

/-- An acknowledgement, cumulative and by bitmap: covered packets leave, the window grows, the timeouts restart where ack
advances. -/
def takeAck (c : Chip) (f ack bitmap : Nat) : Chip :=
  let fl := c.flow f
  let covered (p : Sent) : Bool := ackCovers ack p.psn || bitmapCovers ack bitmap p.psn
  let n := (fl.unacked.filter covered).length
  let advance := decide (1 ≤ psnAhead ack fl.acked) && decide (psnAhead ack fl.acked ≤ psnAhead fl.txNext fl.acked)
  let c := c.setFlow f fun x =>
    { x with unacked := x.unacked.filter fun p => !covered p, window := min 256 (x.window + n),
             acked := if advance then ack else x.acked, timeouts := if advance then 0 else x.timeouts }
  drainBacklog 256 c f

/-- An ACK with ece halves the send window, at most once in 50 µs, never below 16 (R384). -/
def takeEce (c : Chip) (f : Nat) : Chip :=
  let recent := match (c.flow f).halved with
    | some t => decide (c.tide < t + 50000)
    | none => false
  if recent then c else c.setFlow f fun x => { x with window := max 16 (x.window / 2), halved := some c.tide }

/-- The 256-bit bitmap of packets received beyond rx_next (Table 11.3). -/
def rxBitmap (fl : Flow) : List Byte :=
  toLE 32 (sumN (((fl.rxBuf.map fun x => psnAhead x.1 ((fl.rxNext + 1) % 2 ^ 32)).eraseDups.filter fun i => i < 256).map fun i => 2 ^ i))

/-- Send an ACK (R382). -/
def sendAckAt (c : Chip) (f : Nat) : Chip :=
  let fl := c.flow f
  if fl.state ≠ 1 || !fl.ackDue then c
  else (c.sendBare f 3 fl.ece.toNat (rxBitmap fl)).setFlow f fun x => { x with ackDue := false, ece := false }

/-! ### Commands (R389 to R391) -/

/-- The scope of an opcode (Table 11.7). -/
def opScope (op : Nat) : Scope :=
  if op < 3 then .either
  else if 0x0201 ≤ op && op ≤ 0x0204 then .either
  else if (0x0302 ≤ op && op ≤ 0x0306) || op = 0x0404 || op = 0x0501 || op = 0x0503 || op = 0x0504 then .basin
  else .package

/-- Opcodes served while memories are wiped (Table 11.6, Table 11.7). -/
def opInWipe (op : Nat) : Bool := op < 3 || op = 0x0101 || op = 0x0103 || op = 0x0602

/-- Parameters of a wrong length or with reserved fields that are not zero (step 5 of R391). -/
def badParams (c : Chip) (h : Hdr) (op : Nat) : Chip := c.answer h op (opScope op) (opInWipe op) fun _ => .fail .badParam

/-- A group's member bitmap, or a list of words, from parameters. -/
def wordsAt (q : List Byte) (off n w : Nat) : List Nat := tabulate n fun i => leAt q (off + w * i) w

/-- The package's own commands: opcode, parameters, and what the package finds out itself. -/
def runOpcode (c : Chip) (h : Hdr) (op : Nat) (q : List Byte) (e : CmdEnv) : Chip :=
  let n := q.length
  let u (off w : Nat) : Nat := leAt q off w
  let ok (p : Bool) (f : Chip → Chip) : Chip := if p then f c else c.badParams h op
  match op with
  | 0x0001 => ok (n == 0) fun c => c.cmdNop h
  | 0x0002 => ok (n == 0) fun c => c.cmdHeartbeat h
  | 0x0101 => ok (n == 8 && u 4 4 == 0) fun c => c.cmdRegRead h (u 0 4)
  | 0x0102 => ok (n == 16 && u 4 4 == 0) fun c => c.cmdRegWrite h (u 0 4) (BitVec.ofNat 64 (u 8 8))
  | 0x0103 => ok (n == 8) fun c => c.cmdRegReadBlock h (u 0 4) (u 4 4)
  | 0x0201 => ok (decide (16 ≤ n) && n == 16 + u 8 4 && u 12 4 == 0) fun c => c.cmdMemWrite h (u 0 8) (q.drop 16)
  | 0x0202 => ok (n == 16 && u 12 4 == 0) fun c => c.cmdMemRead h (u 0 8) (u 8 4)
  | 0x0203 => ok (n == 24) fun c => c.cmdMemFill h (u 0 8) (u 8 8) (BitVec.ofNat 64 (u 16 8))
  | 0x0204 => ok (n == 24 && u 20 4 == 0) fun c => c.cmdMemDigest h (u 0 8) (u 8 8) (u 16 4)
  | 0x0301 => ok (n == 24 && u 1 7 == 0) fun c => c.cmdProgLoad h (u 0 1) (u 8 8) (u 16 8)
  | 0x0302 => ok (n == 8 && u 2 6 == 0) fun c => c.cmdProgBind h (u 0 1) (u 1 1)
  | 0x0303 => ok (n == 8) fun c => c.cmdLaunchAtTide h (u 0 8)
  | 0x0304 => ok (n == 0) fun c => c.cmdStepCommit h
  | 0x0305 => ok (n == 0) fun c => c.cmdStepDiscard h
  | 0x0306 => ok (n == 0) fun c => c.cmdPreempt h
  | 0x0401 => ok (n == 528 && u 10 6 == 0) fun c => c.cmdFabricConfig h (BitVec.ofNat 64 (u 0 8)) (u 8 2) (wordsAt q 16 16 32)
  | 0x0402 => ok (n == 456 && u 1 7 == 0) fun c => c.cmdSlotTableLoad h (u 0 1) (q.drop 8)
  | 0x0403 => ok (n == 8 && u 2 2 == 0) fun c => c.cmdBarrierConfig h (u 0 1) (u 1 1) (u 4 4) e.latency
  | 0x0404 => ok (decide (8 ≤ n) && n == 8 + 4 * u 2 2 && u 4 4 == 0) fun c => c.cmdRankAssign h (u 0 1) (u 1 1) (wordsAt q 8 (u 2 2) 4)
  | 0x0501 => ok (n == 0) fun c => c.cmdIntStatus h
  | 0x0502 => ok (n == 4 && u 2 2 == 0) fun c => c.cmdDrain h (u 0 1) (u 1 1)
  | 0x0503 => ok (n == 0) fun c => c.cmdAdjudicationLog h
  | 0x0504 => ok (n == 24 && u 2 6 == 0) fun c => c.cmdReplicaDigest h (u 0 1) (u 1 1) (u 8 8) (u 16 8)
  | 0x0601 => ok (n == 32) fun c => c.cmdAttest h q
  | 0x0602 => ok (n == 0) fun c => c.cmdIdentityRead h
  | 0x0603 => c.cmdLifecycleSet h q e.nonce
  | 0x0604 => ok (n == 8) fun c => c.cmdWipe h (u 0 8)
  | 0x0701 => ok (n == 8 && u 1 1 == 0 && u 4 4 == 0) fun c => c.cmdPowerPoint h (u 0 1) (u 2 2)
  | 0x0702 => ok (n == 0) fun c => c.cmdThermalRead h e.readings
  | _ => c.reply h op .badOpcode []

/-- A command packet (R389 to R391). -/
def runPacket (c : Chip) (f : Nat) (p : List Byte) (e : CmdEnv) : Chip :=
  let h : Hdr := { flow := f, seq := leAt p 8 4, basin := leAt p 12 1, pkg := leAt p 5 1 % 2 == 1 }
  let op := leAt p 6 2
  if !cmdHeaderOk p then c.reply h op .badParam []
  else c.runOpcode h op ((p.drop 32).take (p.length - 36)) e

/-! ### Host reads (R386, R388) -/

/-- The outstanding HREAD of a flow with a tag. -/
def findRead (c : Chip) (f tag : Nat) : Option HRead := c.quay.hreads.find? fun r => r.flow = f && r.tag = tag

def dropRead (c : Chip) (r : HRead) : Chip := { c with quay := { c.quay with hreads := c.quay.hreads.erase r } }

/-- Data for the near bytes an HREAD serves, 16 bytes at a time. -/
def fillNear (c : Chip) (r : HRead) (data : List PByte) : Chip :=
  (r.near.zip (List.range r.near.length)).foldl (fun c x =>
    if x.1 = 0 then c else c.landHost r x.1 ((data.drop (16 * x.2)).take 16)) c

/-- The data of an HREAD arrives, or is lost on the mesh (R37, R386). -/
def answerRead (c : Chip) (r : HRead) (data : List Byte) : Chip :=
  let c := c.dropRead r
  if !c.meshBroken r.core then ((c.hostStore r.host data).allocateWindow r (clean data)).fillNear r (clean data)
  else
    let lost : List PByte := List.replicate r.len none
    let c := (c.meshFault r.core).allocateWindow r lost
    if r.near.all (· == 0) then c.markHost r.host r.len true else c.fillNear r lost

/-- HDATA: it answers an HREAD of its flow, or is discarded with hdata_bad (R386). -/
def takeHdata (c : Chip) (f : Nat) (p : List Byte) : Chip :=
  let tag := leAt p 0 4
  let len := leAt p 4 4
  match c.findRead f tag with
  | some r =>
    if p.length < 8 || len ≠ r.len || p.length ≠ 8 + len then c.event R.quaEvents 4
    else (c.answerRead r (p.drop 8)).settleDigests
  | none => c.event R.quaEvents 4

/-- An HREAD ends without its answer: its lines are delivered poisoned (R388) (log entry 34, DEDUCED). -/
def abandonRead (c : Chip) (r : HRead) : Chip :=
  let c := ((c.dropRead r).event R.quaEvents 3).setAcc r.basin fun a => { a with timeout := true }
  if r.near.all (· == 0) then (c.markHost r.host r.len true).settleDigests
  else ((c.fillNear r (List.replicate r.len none)).event (R.strEvents r.core) 4).report r.core 0 8 r.win

/-- An HREAD has had no answer for host_timeout (R388). -/
def hostTimeoutAt (c : Chip) (f tag : Nat) : Chip :=
  match c.findRead f tag with
  | none => c
  | some r => (c.passTo (r.tick + 1000 * max 1 (c.regField R.quaTimers 16 16))).abandonRead r

/-! ### Sequenced packets (R381, R382) -/

/-- The replies of a flow that have not left: those that the port's pause holds, those that wait for send space. -/
def repliesHeld (c : Chip) (f : Nat) : List (List Byte) :=
  c.quay.held.filterMap fun o => match o with
    | .quay _ g 2 _ _ _ _ p => if g = f then some p else none
    | _ => none
def repliesLeft (c : Chip) (f : Nat) : List (List Byte) := ((c.flow f).backlog.filter fun x => x.1 = 2).map Prod.snd

/-- Whether the first reply of the latest command that began on a flow has not been sent (R393). -/
def replyWaits (c : Chip) (f : Nat) : Bool :=
  match (c.flow f).first with
  | some p => (c.repliesHeld f).contains p || (c.repliesLeft f).contains p
  | none => false

/-- A command begins; its first reply is the first that bears its opcode and seq (Table 11.4). -/
def beginCmd (c : Chip) (f : Nat) (d : Dgram) (e : CmdEnv) : Chip :=
  let p := qPayload d
  let c' := c.runPacket f p e
  let new := (c'.repliesHeld f).drop (c.repliesHeld f).length ++ (c'.repliesLeft f).drop (c.repliesLeft f).length
  c'.setFlow f fun x => { x with first := new.find? fun r => (r.drop 6).take 6 == (p.drop 6).take 6 }

/-- The commands of a flow that may begin do so, in psn order (R393) (log entry 48, DEDUCED). -/
def beginAll : Nat → Chip → Nat → Chip
  | 0, c, _ => c
  | fuel + 1, c, f =>
    match (c.flow f).toBegin with
    | [] => c
    | x :: rest =>
      if c.replyWaits f then c
      else beginAll fuel ((c.setFlow f fun y => { y with toBegin := rest }).beginCmd f x.1 x.2) f

/-- The commands of a flow that have not begun, those that may begin. -/
def beginReady (c : Chip) (f : Nat) : Chip := beginAll (c.flow f).toBegin.length c f

/-- Process one accepted packet in psn order: data answers its read, a command waits for its turn. -/
def process (c : Chip) (f : Nat) (d : Dgram) (e : CmdEnv) : Chip :=
  let c := c.setFlow f fun x => { x with rxNext := (x.rxNext + 1) % 2 ^ 32 }
  match leAt d.bytes 0 1 with
  | 1 => (c.setFlow f fun x => { x with toBegin := x.toBegin ++ [(d, e)] }).beginReady f
  | 7 => c.takeHdata f (qPayload d)
  | _ => c

/-- Process accepted packets from rx_next on. -/
def processAll : Nat → Chip → Nat → CmdEnv → Chip
  | 0, c, _, _ => c
  | fuel + 1, c, f, e =>
    let fl := c.flow f
    match fl.rxBuf.find? fun x => x.1 = fl.rxNext with
    | none => c
    | some x =>
      processAll fuel ((c.setFlow f fun y => { y with rxBuf := y.rxBuf.filter fun z => z.1 ≠ fl.rxNext }).process f x.2 e) f e

/-- Bytes of the frames that the receive buffer holds: packets out of order, and commands that have not begun. -/
def rxFill (c : Chip) : Nat :=
  sumN (c.quay.flows.flatMap fun f => (f.rxBuf.map fun x => x.2.frameLen) ++ f.toBegin.map fun x => x.1.frameLen)

/-- Priority flow control of the receive buffer: a pause above three quarters of 1 MiB, its release below half (R376). -/
def flowControl (c : Chip) : Chip :=
  let n := c.rxFill
  let set (p : Bool) : Chip := { c with quay := { c.quay with pausing := p } }.out (.pause (c.regField R.quaNet 27 3) p)
  if c.regField R.quaNet 30 1 = 0 then c
  else if !c.quay.pausing && 786432 < n then set true
  else if c.quay.pausing && n < 524288 then set false
  else c

/-- A CMD or HDATA of a flow in its session: accepted, a duplicate, or dropped (R381). -/
def sequenced (c : Chip) (q : QHdr) (d : Dgram) (e : CmdEnv) : Chip :=
  let f := q.flow
  if q.type = 1 && !cmdCrcOk (qPayload d) then c.event R.quaEvents 0
  else
    let c := (c.takeAck f q.ack 0).beginReady f
    let ahead := psnAhead q.psn (c.flow f).rxNext
    let behind := psnAhead (c.flow f).rxNext q.psn
    if ahead < 256 then
      let c := c.countRx.setFlow f fun x =>
        { x with ackDue := true, rxBuf := if x.rxBuf.any fun z => z.1 = q.psn then x.rxBuf else x.rxBuf ++ [(q.psn, d)] }
      (processAll 256 c f e).flowControl
    else (if 1 ≤ behind && behind ≤ 2 ^ 31 then c.setFlow f fun x => { x with ackDue := true } else c).flowControl

/-- A datagram of a type on a flow whose session it carries. -/
def onSession (c : Chip) (d : Dgram) (type : Nat) (f : Chip → QHdr → Chip) : Chip :=
  match c.admitDgram d with
  | (c, none) => c
  | (c, some _) =>
    match quayHdr d type with
    | none => c
    | some q =>
      let fl := c.flow q.flow
      if fl.state = 0 || q.session ≠ fl.session then c
      else f (if d.ce then c.setFlow q.flow fun x => { x with ece := true } else c) q

/-- An ACK (R383, R384). -/
def ackAt (c : Chip) (d : Dgram) : Chip :=
  c.onSession d 3 fun c q =>
    if q.length ≠ 32 then c
    else
      let c := ((c.countRx.takeAck q.flow q.ack (leAt (qPayload d) 0 32)).beginReady q.flow).flowControl
      if q.flags % 2 = 1 then c.takeEce q.flow else c

/-- OPEN_OK, whatever the flow's state (R380). -/
def openOk (c : Chip) (f : Nat) : Chip :=
  let fl := c.flow f
  (c.quayOut (c.packet f 5 0 0 fl.rxNext fl.session [])).addField R.quaPkts 32 32 1

/-- An OPEN of another session (R380): the flow starts anew, bound to the sender; HREADs and HWRITEs without acknowledgement are
sent again, replies are not. -/
def bindFlow (c : Chip) (f peer session : Nat) (d : Dgram) : Chip :=
  let old := c.flow f
  let again := (old.unacked.map fun p => (p.type, p.payload)) ++ old.backlog
  let c := c.countRx.setFlow f fun _ =>
    { Flow.reset with state := 1, peer := peer, peerAddr := d.srcAddr, peerMac := d.srcMac, hostPort := d.srcPort,
                      session := session, ece := d.ce }
  let c := c.openOk f
  let c := (again.filter fun p => p.1 = 6 || p.1 = 8).foldl (fun c p => c.send f p.1 p.2) c
  (c.heard d.srcAddr).flowControl

/-- OPEN (R380) (log entry 34, DEDUCED). -/
def openAt (c : Chip) (d : Dgram) : Chip :=
  match c.admitDgram d with
  | (c, none) => c
  | (c, some peer) =>
    match quayHdr d 4 with
    | none => c
    | some q =>
      let f := q.flow
      let old := c.flow f
      if q.session = 0 || q.length ≠ 0 then c
      else if old.state ≠ 0 && old.session = q.session then
        (if d.ce then c.setFlow f fun x => { x with ece := true } else c).countRx.openOk f
      else c.bindFlow f peer q.session d

/-! ### Timers (R383, R388, R406, R407) -/

/-- The aperture of a basin on a flow that reaches a host address, as window address: the first of its apertures on that flow where
none reaches it (R385). -/
def windowOf (c : Chip) (b f host : Nat) : Option Nat :=
  let on := (List.range 16).filter fun i =>
    let l := c.reg (R.quaAperLen i)
    fbit l 44 && fbit l (40 + b) && fget l 36 4 = f
  match on.find? fun i => (host + 2 ^ 64 - (c.reg (R.quaAperHost i)).toNat) % 2 ^ 64 < 4096 * fget (c.reg (R.quaAperLen i)) 0 36 with
  | some i => some (c.regField (R.quaAperDev i) 0 48 + (host + 2 ^ 64 - (c.reg (R.quaAperHost i)).toNat) % 2 ^ 64)
  | none => on.head?.map fun i => c.regField (R.quaAperDev i) 0 48

/-- A flow is LOST (R383, R388). The loss is reported at the oldest HWRITE that was not acknowledged (log entry 34, DEDUCED). -/
def loseFlow (c : Chip) (f : Nat) : Chip :=
  let fl := c.flow f
  let writes := ((fl.unacked.filter fun p => p.type = 8).map Sent.payload) ++ (fl.backlog.filter fun p => p.1 = 8).map Prod.snd
  let c := (c.event R.quaEvents 2).setFlow f fun x => { x with state := 2, unacked := [], backlog := [], ackDue := false }
  match writes with
  | [] => c.beginReady f
  | p :: _ =>
    let c := c.event R.quaEvents 5
    (c.basinsIn.foldl (fun c b => match c.windowOf b f (leAt p 0 8) with
      | some a => if c.undecided b then c.report (c.firstCore b) 1 8 a else c
      | none => c) c).beginReady f

/-- A packet's timeout: it is sent again. A flow's timeouts are those of its oldest packet without acknowledgement (log entry 34, DEDUCED
from Table 11.13); after the 64th in a row the flow is LOST (R383). -/
def timedOut (c : Chip) (f : Nat) (p : Sent) : Chip :=
  let n := (c.flow f).timeouts + (((c.flow f).unacked.head?.map Sent.psn) == some p.psn).toNat
  let c := c.setFlow f fun x => { x with timeouts := n }
  if 64 ≤ n then c.loseFlow f
  else
    let fl := c.flow f
    let c := (c.quayOut (c.packet f p.type 2 p.psn fl.rxNext fl.session p.payload)).addField R.quaPkts 32 32 1
    c.setFlow f fun x =>
      { x with unacked := x.unacked.map fun y => if y.psn = p.psn then { y with retx := true, tick := c.tide } else y }

/-- A packet has waited rto for its acknowledgement (R383). -/
def rtoAt (c : Chip) (f psn : Nat) : Chip :=
  match (c.flow f).unacked.find? fun p => p.psn = psn with
  | none => c
  | some p =>
    if (c.flow f).state ≠ 1 then c else (c.passTo (p.tick + 1000 * max 1 (c.regField R.quaTimers 0 16))).timedOut f p

/-- A BEAT leaves (R406). -/
def sendBeat (c : Chip) : Chip :=
  let c := c.sendBare 0 9 0 c.beatBody
  { c with quay := { c.quay with beats := (c.quay.beats + 1) % 2 ^ 32, beatAt := some c.tide } }

/-- A BEAT, at the next multiple of 1,000,000 ticks (R405, R406). -/
def beatAt (c : Chip) : Chip :=
  if (c.flow 0).state ≠ 1 || c.dev = .off || c.dev = .boot then c
  else
    (c.pass (dueIn c.tide 1000000 c.quay.beatAt)).sendBeat

/-- host_silent is set, once for a silence (R407). -/
def noteSilence (c : Chip) : Chip := { c.event R.quaEvents 8 with quay := { c.quay with silent := true } }

/-- Flow 0's peer has been silent for 10 ms (R407). -/
def hostSilentAt (c : Chip) : Chip :=
  if (c.flow 0).state = 0 || c.quay.silent || c.dev = .off || c.dev = .boot then c
  else (c.pass (10000000 - c.quay.silence)).noteSilence

/-! ### Neighbours, pauses, crossing queues, link state -/

/-- An address the port answers for: ARP for IPv4, Neighbor Solicitation for IPv6 (R377, R442). -/
def ownAddress (c : Chip) (mgmt ipv6 : Bool) : Nat :=
  if mgmt then
    let a := (c.reg R.pltMgmtSrcLo).toNat + (c.reg R.pltMgmtSrcHi).toNat * 2 ^ 64
    let v4 := a / 2 ^ 32 = 0xFFFF
    if ipv6 then (if v4 then 0 else a) else if v4 then a % 2 ^ 32 else 0
  else if ipv6 then (c.reg R.quaIp6Lo).toNat + (c.reg R.quaIp6Hi).toNat * 2 ^ 64 else c.regField R.quaIp4 0 32

def answerNeighbor (c : Chip) (mgmt ipv6 : Bool) (addr : Nat) : Chip :=
  let own := c.ownAddress mgmt ipv6
  let live := if mgmt then c.reporting && c.mgmtUp else c.portLive
  if !live || own = 0 || own ≠ addr then c
  else
    let o : Out := .neighbor (if mgmt then none else c.vlanTag) mgmt ipv6 addr (c.fuses.mac + mgmt.toNat)
    if mgmt then c.out o else c.quayOut o

/-- A priority flow control frame (R376) (log entry 34, DEDUCED). -/
def pauseAt (c : Chip) (pcp : Nat) (pause : Bool) : Chip :=
  if !c.portLive || c.regField R.quaNet 30 1 = 0 || pcp ≠ c.regField R.quaNet 27 3 then c
  else if pause then { c with quay := { c.quay with paused := true } }
  else
    let c := { c with quay := { c.quay with paused := false, held := [] }, wire := c.wire ++ c.quay.held }
    ((List.range 16).foldl beginReady c).flowControl

/-- Whether a crossing queue exists on a die (Table 11.11). -/
def xqExists (die queue : Nat) : Bool :=
  match queue with
  | 0 => die == 36
  | 1 => die == 36
  | 2 => decide (20 ≤ die) && decide (die < 36)
  | 3 => die == 37
  | _ => false

/-- xq_reset and QUA_XQ_REC of a crossing queue's reset (R409, Table 11.20). -/
def noteXq (c : Chip) (die queue : Nat) (tx : Bool) (port : Nat) : Chip :=
  (c.event R.quaEvents 6).latch R.quaXqRec
    (packF [(0, 1, 1), (1, 6, die), (7, 2, queue), (9, 1, (queue == 2 && tx).toNat), (10, 1, if queue = 2 then port else 0),
      (11, 53, c.tide)])

/-- A crossing queue resets (R409); the link layer of a transmit queue sends again, that of a receive queue sends a NAK for what was
discarded (Table 11.11). -/
def xqResetAt (c : Chip) (die queue : Nat) (tx : Bool) (port : Nat) : Chip :=
  if !c.tideRuns || !xqExists die queue || 1 < port then c
  else
    let c := c.noteXq die queue tx port
    let p := 2 * (die - 20) + port
    if queue ≠ 2 then c else if tx then c.restart p else c.discarded p { pseq := (c.port p).expect, vc := 0, bad := none, ack := 0, cvc := 0, ccount := 0 }

/-- The quay port loses its link (R405). -/
def quayDown (c : Chip) : Chip := c.setField R.quaPhy 2 1 0

/-- The quay port comes up with the lanes that are locked (R405, Table 11.15). -/
def quayUp (c : Chip) (locked : Nat) : Chip := (c.setField R.quaPhy 2 1 1).setField R.quaPhy 3 8 locked

end Chip

/-- A CMD packet (R381, R389 to R393). -/
def execCmd (d : Dgram) (e : CmdEnv) (s : State) : Host.Outcome State Fault Refusal :=
  s.upd fun c => c.onSession d 1 fun c q => c.sequenced q d e
/-- An ACK packet (R383, R384). -/
def execAck (d : Dgram) (s : State) : Host.Outcome State Fault Refusal := s.upd fun c => c.ackAt d
/-- The package sends an ACK (R382). -/
def execSendAck (flow : Nat) (s : State) : Host.Outcome State Fault Refusal := s.upd fun c => c.sendAckAt flow
/-- An OPEN packet (R380). -/
def execOpenFlow (d : Dgram) (s : State) : Host.Outcome State Fault Refusal := s.upd fun c => c.openAt d
/-- An HDATA packet (R386). -/
def execHdata (d : Dgram) (e : CmdEnv) (s : State) : Host.Outcome State Fault Refusal :=
  s.upd fun c => c.onSession d 7 fun c q => c.sequenced q d e
/-- The retransmission timeout of a packet (R383). -/
def execRto (flow psn : Nat) (s : State) : Host.Outcome State Fault Refusal := s.upd fun c => c.rtoAt flow psn
/-- The timeout of an HREAD (R388). -/
def execHostTimeout (flow tag : Nat) (s : State) : Host.Outcome State Fault Refusal := s.upd fun c => c.hostTimeoutAt flow tag
/-- A BEAT (R406). -/
def execBeat (s : State) : Host.Outcome State Fault Refusal := s.upd fun c => c.beatAt
/-- The silence count expires (R407). -/
def execHostSilent (s : State) : Host.Outcome State Fault Refusal := s.upd fun c => c.hostSilentAt
/-- An ARP request (R377, R442). -/
def execArpRequest (mgmt : Bool) (addr : Nat) (s : State) : Host.Outcome State Fault Refusal :=
  s.upd fun c => c.answerNeighbor mgmt false addr
/-- A Neighbor Solicitation (R377, R442). -/
def execNeighborSolicitation (mgmt : Bool) (addr : Nat) (s : State) : Host.Outcome State Fault Refusal :=
  s.upd fun c => c.answerNeighbor mgmt true addr
/-- A priority flow control frame (R376). -/
def execPriorityFlowControl (pcp : Nat) (pause : Bool) (s : State) : Host.Outcome State Fault Refusal :=
  s.upd fun c => c.pauseAt pcp pause
/-- A crossing queue resets (R409). -/
def execXqReset (die queue : Nat) (tx : Bool) (port : Nat) (s : State) : Host.Outcome State Fault Refusal :=
  s.upd fun c => c.xqResetAt die queue tx port
/-- A crossing queue's read side takes a partial word (R410): what it holds goes on its way as whole words would, and nothing that
the State holds changes. -/
def execXqTimeout (_die _queue : Nat) (s : State) : Host.Outcome State Fault Refusal := s.upd fun c => c
/-- The quay port's link goes down. -/
def execQuayLinkDown (s : State) : Host.Outcome State Fault Refusal :=
  s.upd fun c => if c.dev == .off then c else c.quayDown

end Sys2Proof.Machine
end

