-- ==== Sys2Proof/Machine/LinkRows.lean ====
section
/-! DEFINITION. What arrives on the tidelinks and what their rows do: forwarding (R310, R311), the link layer (R313), rotation
and failure (R304 to R307), bring-up, collectives' messages (R325 to R335), notices and pod barriers (R260, R341 to R343), slots
(R317 to R320). -/

namespace Sys2Proof.Machine
open Sys2Proof

/-- Credits of a receiver's empty buffers, by virtual channel (R315). -/
def fullCredits : List Nat := [8, 16, 16, 576, 576, 0]

namespace Chip

/-- JTAG has the lands: EXTEST, CLAMP or HIGHZ is in the instruction register (R440). -/
def jtagDrives (c : Chip) : Bool := c.pilot.ir == 0 || c.pilot.ir == 3 || c.pilot.ir == 4

/-- A port receives: it is up and no fault has stopped the tidelinks. -/
def portReceives (c : Chip) (p : Nat) : Bool := decide (p < 32) && c.portUp p && !c.fab.down

/-! ### Messages for this package -/

/-- A message of kind `kind` that comes to this package as its own (R310, R311): for a basin of the cut, on a port that receives or
from the package itself (port 0x3F) (log entry 35, DEDUCED). -/
def takes (c : Chip) (kind : Nat) (m : LinkMsg) : Bool :=
  (c.dev == .ready || c.dev == .drain || c.dev == .faulted) && m.kind == kind && (m.port == 0x3F || c.portReceives m.port) &&
    (c.forHere m || c.serviceRole == 2) && (m.port == 0x3F || c.serviceRole != 1) && decide (m.dbasin < c.basinCount)

/-- What a flit that comes in says of the other way: its acknowledgement, its credits, and the messages that may start with them
(R313, R315). -/
def linkAck (c : Chip) (p ack cvc ccount : Nat) : Chip :=
  let c := c.ackPort p ack
  (c.setPort p fun x =>
    { x with credits := modifyAt x.credits cvc fun k => min (fullCredits.getD cvc 0) (k + ccount % 32) }).drainWaiting p

/-- A message of `n` flits has come in on a port, or from the package itself: accepted, with what its flits say of the other way. -/
def took (c : Chip) (p n : Nat) (a : FlitIn) (stays : Bool) : Chip :=
  let c := c.accepted p n a.vc stays
  if p < 32 then c.linkAck p a.ack a.cvc a.ccount else c

/-- A message comes in on a port, whole and in order, or is discarded (R313). -/
def receive (c : Chip) (p n : Nat) (a : FlitIn) (stays : Bool) (f : Chip → Chip) : Chip :=
  if c.inOrder p a then f (c.took p n a stays) else c.discarded p a

/-- Take a message whole, then act on it; in FAULTED no basin acts (R368). -/
def inbound (c : Chip) (kind : Nat) (m : LinkMsg) (f : Chip → Chip) : Chip :=
  if c.takes kind m then c.receive m.port (flitsOf m) m.arr true fun c => if c.dev = .faulted then c else f c else c

/-- Take a flooded message: it goes on along its tree, in FAULTED too (R310, R368), and every basin of the package acts on it but the
one that sent it (R341). -/
def floodIn (c : Chip) (kind : Nat) (m : LinkMsg) (f : Chip → Nat → Chip) : Chip :=
  if c.takes kind m then c.receive m.port (flitsOf m) m.arr true fun c =>
    let own (b : Nat) : Bool := m.sbasin == b && m.sx == c.here 0 && m.sy == c.here 1 && m.sz == c.here 2
    let c := if m.port = 0x3F || c.serviceRole = 2 then c else c.floodOn { m with port := 0x3F }
    if c.dev = .faulted then c else (c.basinsIn.filter fun b => !own b).foldl f c
  else c

/-- Whether a message comes from the basin that a rank names (R341). -/
def fromRank (c : Chip) (b r : Nat) (m : LinkMsg) : Bool := c.rankPlace b r == some (m.sx, m.sy, m.sz, m.sbasin)

/-- Whether a basin has a core in RUN. -/
def hasRunner (c : Chip) (b : Nat) : Bool := (c.coresOf b).any fun i => (c.core i).phase == .run

/-- A start notice: the basin holds with REMOTE_EBB from its next boundary (R260, R341). -/
def noticeStart (c : Chip) (m : LinkMsg) (b : Nat) : Chip :=
  let key := (bits m.body 0 8, bits m.body 8 8)
  if !(c.basin b).live || bits m.body 16 4 ≠ c.ebbGroup b || !c.fromRank b key.1 m || (c.basin b).remotes.contains key || !c.hasRunner b then c
  else (c.setBasin b fun x => { x with remotes := x.remotes ++ [key] }).raise (c.firstCore b) 0 6 none

/-- An end notice: with no other start outstanding the hold ends at the next edge; without its start it is discarded (R341). -/
def noticeEnd (c : Chip) (m : LinkMsg) (b : Nat) : Chip :=
  let key := (bits m.body 0 8, bits m.body 8 8)
  if bits m.body 16 4 ≠ c.ebbGroup b || !c.fromRank b key.1 m || !(c.basin b).remotes.contains key then c
  else
    let c := c.setBasin b fun x => { x with remotes := x.remotes.filter fun k => k != key }
    if !(c.basin b).remotes.isEmpty then c
    else (c.coresOf b).foldl (fun c i => c.setCore i fun k =>
      { k with ebb := k.ebb.map fun e => { e with pend := e.pend.map fun p =>
          if p.cause = 6 then { p with left := some 0 } else p } }) c

/-- An arrival reaches the root of its group (R342). -/
def barrierArrival (c : Chip) (m : LinkMsg) : Chip :=
  let b := m.dbasin
  let id := bits m.body 0 6
  let rank := bits m.body 6 8
  let r := R.redBar (c.redAt b) id
  let ms := c.members b (c.regField r 0 4)
  if id = 0 || c.regField r 4 1 = 0 || ms.head? ≠ some (c.ownRank b) || !ms.contains rank then c
  else c.rootArrive b id rank (c.fullTick (bits m.body 14 48))

/-- A release reaches a member of its group; another epoch's is discarded (R267, R342, R343). -/
def barrierReleased (c : Chip) (m : LinkMsg) (b : Nat) : Chip :=
  let id := bits m.body 0 6
  let r := R.redBar (c.redAt b) id
  let root := (c.members b (c.regField r 0 4)).head?
  if id = 0 || c.regField r 4 1 = 0 || !(c.members b (c.regField r 0 4)).contains (c.ownRank b) ||
      !(root.elim false fun x => c.fromRank b x m) then c
  else if bits m.body 6 8 ≠ c.regField r 56 8 || !((c.coresOf b).all fun i => (c.atBarrier b id).contains i) then
    (c.event (R.redEvents (c.redAt b)) 5).cargoRec b 6 (root.getD 0) 0 m.port 0 (c.regField r 0 4)
  else c.podRelease b id (c.fullTick (bits m.body 14 48))

/-! ### Forwarding (R310, R311, R335) -/

/-- A message for other coordinates, or for a host's guest, goes on its way; a cargo with a wrong CRC-64 goes on poisoned (log
entry 24, DEDUCED). -/
def forwardMsg (c : Chip) (m : LinkMsg) : Chip :=
  let lives := c.dev == .ready || c.dev == .drain || c.dev == .faulted
  if !(lives && c.portReceives m.port && decide (1 ≤ m.kind) && decide (m.kind ≤ 8) && c.serviceRole != 2 &&
      (!c.forHere m || c.serviceRole == 1)) then c
  else c.receive m.port (flitsOf m) m.arr false fun c =>
    let bad := !cargoCrcOk m
    let c := if bad then c.cargoFail (c.basinOfHarbour (portDie m.port)) 0 m.port (CargoHdr.parse m.cargo) else c
    let m' := if bad then poisonCargo m else m
    let c := if flooded m.kind && c.serviceRole = 1 then c.floodOn { m with port := 0x3F } else c
    match (if flooded m.kind && 30 ≤ m.port then none else c.routeOf m) with
    | some r => c.sendDir r.1 (toHeld r.2 0 m')
    | none => c.giveCredits m.port m.arr.vc (flitsOf m)

/-! ### The link layer (R313, R315) -/

/-- A rotation member with nothing left to acknowledge begins its calibration late (R305). -/
def lateCalibration (c : Chip) (p : Nat) : Chip :=
  let x := portPlace p
  if c.dirRotating x.1 && x.2 == c.rotMember && c.portRole p == 0 && (c.port p).replay.isEmpty &&
      decide (c.tide % 10000000 < 9980000) then
    (c.setRole p 1).setPort p fun x => { x with calibrating := decide (c.tide % 10000000 < 8000000) }
  else c

/-- A NAK: everything before the expected pseq is acknowledged, the rest goes again. -/
def nakAt (c : Chip) (p expected : Nat) : Chip :=
  if !c.portReceives p then c
  else
    let c := c.ackPort p expected
    if (c.port p).replay.isEmpty then c.lateCalibration p else c.restart p

/-- 2 µs with flits outstanding and no advance of ack: time passes to their end. -/
def retryAt (c : Chip) (p : Nat) : Chip :=
  if !c.portReceives p || (c.port p).replay.isEmpty then c else (c.passTo ((c.port p).since + 2000)).restart p

/-- An IDLE flit: its acknowledgement and its credits. -/
def idleFlit (c : Chip) (p ack cvc ccount : Nat) : Chip :=
  if !c.portReceives p then c else (c.linkAck p ack cvc ccount).lateCalibration p

/-! ### Failure and rotation (R304 to R307) -/

/-- Messages that wait on a port which takes none are sent by the direction's other members. -/
def rewait (c : Chip) (p : Nat) : Chip :=
  let l := (c.port p).waiting
  let d := (portPlace p).1
  let c := c.setPort p fun x => { x with waiting := [] }
  l.foldl (fun c h => c.sendDir (c.sameWay d h) h) c

/-- A port fails (R306): recorded, out of traffic, the peer told on another member. -/
def portFails (c : Chip) (p reason : Nat) : Chip :=
  let d := (portPlace p).1
  let h := portDie p
  let c := c.event (R.lnkEvents h) 1
  let c := c.capture (R.lnkFailRec h) (packF [(0, 1, 1), (1, 5, p), (6, 2, reason), (8, 56, c.tide)]) 0x15 (c.basinOfHarbour h)
  let c := (c.setField (R.lnkPort p) 0 1 0).failPort p
  match (portsOfDir d).find? c.portActive with
  | some q => c.linkSend q { pseq := 0, flits := 1, vc := 6, job := 0, m := { c.slotMsg 0 [] with body := p } }
  | none => c

/-- A port meets one of R306's conditions. -/
def portFailAt (c : Chip) (p reason : Nat) : Chip :=
  if !c.tideRuns || !c.portReceives p || c.portRole p = 2 || 3 < reason || (reason = 0 && (c.port p).retries < 16) ||
      (reason = 3 && c.portRole p ≠ 1) then c
  else c.portFails p reason

/-- A PORTCTL flit names the member that failed at the far end: this end's port of that member fails in the same way (R306) (log
entry 35, DEDUCED). -/
def portctlAt (c : Chip) (p failed : Nat) (a : FlitIn) : Chip :=
  let q := (portPlace failed).2
  if !c.portReceives p then c
  else c.receive p 1 a true fun c => match (portsOfDir (portPlace p).1).find? fun x => (portPlace x).2 = q with
    | none => c
    | some x => if x = p || c.portRole x = 2 || !c.portUp x then c else c.portFails x 0

/-- Time passes to the next tick at an offset of a rotation period, the present one included. -/
def passOffset (c : Chip) (o : Nat) : Chip := c.pass ((10000000 + o - c.tide % 10000000) % 10000000)

/-- The member `k` of every rotating direction, where it is up and in role `role`. -/
def membersOf (c : Chip) (k role : Nat) : List Nat :=
  (List.range 30).filter fun p =>
    c.dirRotating (portPlace p).1 && (portPlace p).2 == k && c.portUp p && c.portRole p == role

/-- The rotation port of the present period leaves traffic, and the previous one is done (R304, R305). -/
def beginPeriod (c : Chip) : Chip :=
  let old := (List.range 30).filter fun p =>
    c.dirRotating (portPlace p).1 && c.portRole p == 1 && (portPlace p).2 != c.rotMember
  let c := old.foldl (fun c p => (c.setRole p 0).endCalibration p) c
  let c := (c.membersOf c.rotMember 0).foldl (fun c p =>
    if (c.port p).replay.isEmpty then (c.setRole p 1).setPort p fun x => { x with calibrating := true }
    else c.event (R.lnkEvents (portDie p)) 4) c
  (c.membersOf c.rotMember 1 ++ c.membersOf c.rotMember 0).foldl rewait c

/-- A rotation period begins (R304). -/
def periodAt (c : Chip) : Chip := if !c.tideRuns then c else (c.passOffset 0).beginPeriod

/-- Calibration ends and standby begins (Table 09.2). -/
def beginStandby (c : Chip) : Chip :=
  (c.membersOf c.rotMember 1).foldl (fun c p => (c.out (.flit p 0 (idleBytes (c.port p).expect 0 0))).endCalibration p) c

/-- Standby begins at offset 8,000,000. -/
def standbyAt (c : Chip) : Chip := if !c.tideRuns then c else (c.passOffset 8000000).beginStandby

/-- The rotation port joins traffic and the next member drains (Table 09.2). -/
def joinTraffic (c : Chip) : Chip :=
  let c := (c.membersOf c.rotMember 1).foldl (fun c p => (c.setRole p 0).endCalibration p) c
  (List.range 30).foldl (fun c p => if c.draining p then c.rewait p else c) c

/-- The rotation port joins at offset 9,980,000. -/
def joinAt (c : Chip) : Chip := if !c.tideRuns then c else (c.passOffset 9980000).joinTraffic

/-- A port has trained (R303, R306, R307; Table 09.17): up with its cable delay, an empty link layer, in traffic or, as the present
rotation port, in rotation; its direction is no longer down. -/
def trained (c : Chip) (p oneWay : Nat) : Chip :=
  let x := portPlace p
  let rot := c.dirRotating x.1 && x.2 == c.rotMember && decide (c.tide % 10000000 < 9980000)
  let c := ((c.setField (R.lnkPort p) 0 1 1).setField (R.lnkPort p) 10 22 oneWay).setRole p (if rot then 1 else 0)
  let c := c.setField (R.lnkDir 20 x.1) 9 1 0
  let c := c.setPort p fun x =>
    { Port.reset with waiting := x.waiting, calibrating := rot && decide (c.tide % 10000000 < 8000000) }
  let c := if c.portActive p then c.drainWaiting p else c
  ((portsOfDir x.1).filter fun q => !c.portActive q).foldl rewait c

/-- A port comes up, unless it has failed, is up, or its lands are JTAG's. -/
def linkUp (c : Chip) (p oneWay : Nat) : Chip :=
  if !c.tideRuns || c.jtagDrives || 32 ≤ p || c.portRole p = 2 || c.portUp p then c else c.trained p oneWay

/-! ### Slots (R317 to R320) -/

/-- The first tick of a slot's next occurrence. -/
def slotStart (c : Chip) (slot : Nat) : Nat :=
  let frame := c.tide / 16384 * 16384
  let t := frame + 256 * slot
  if c.tide ≤ t then t else t + 16384

/-- The PRBS31 sequence from a state, by bits: x^31 + x^28 + 1 (R320; log entry 61, PRESUMED). -/
def prbsBits : Nat → Nat → List Bool
  | 0, _ => []
  | n + 1, s => (s.testBit 30 != s.testBit 27) :: prbsBits n ((2 * s + (s.testBit 30 != s.testBit 27).toNat) % 2 ^ 31)
/-- `n` bytes of the payload of a test message. -/
def prbsBytes (n : Nat) : List Byte :=
  (chunks 8 (prbsBits (8 * n) Config.prbsStart)).map fun l => BitVec.ofNat 8 (l.foldr (fun b x => b.toNat + 2 * x) 0)

/-- The kind of traffic that a member's own die gives a slot of its link: 1 copy, 2 test; 0 none (R317, R318). -/
def slotKind (c : Chip) (link slot p : Nat) : Nat :=
  let v := c.reg (R.lnkSlot (portDie p) link slot)
  if fbit v 0 && fget v 1 2 < 3 then fget v 1 2 else 0

/-- Kinds of message that travel in a slot of a kind: COPY or TEST. -/
def slotMsgKind (kind : Nat) : Nat := 8 + kind

/-- What a member holds unacknowledged of a slot's kind goes again, as far as `n` flits take it; the flits left (R318). -/
def slotAgain (c : Chip) (kind p n : Nat) : Chip × Nat :=
  ((c.port p).replay.filter fun h => h.m.kind = slotMsgKind kind).foldl
    (fun (r : Chip × Nat) h => if h.flits ≤ r.2 then (r.1.emit p h, r.2 - h.flits) else r) (c, n)

/-- What a member with nothing unacknowledged sends in at most `n` flits of a slot: what waits, else new traffic (R318 to R320). -/
def slotFresh (c : Chip) (kind die p n : Nat) : Chip :=
  match (c.port p).waiting.find? fun h => h.m.kind = slotMsgKind kind with
  | some h => if h.flits ≤ n && c.replayRoom p h.flits then
      (c.setPort p fun x => { x with waiting := x.waiting.erase h }).startMsg p h
    else c
  | none =>
    if n = 0 || !c.replayRoom p n then c
    else if kind = 2 then c.startMsg p (toHeld 5 0 (c.slotMsg 10 (prbsBytes (240 * n - 16)))) else c.sendCopy die p n

/-- An active slot: up to 96 flits, what members in traffic hold unacknowledged first, the rest shared by its active members; copies
are those of the die that carries the lowest of them, where the first of its queue is for this link (R318 to R320) (log entry 35,
DEDUCED). -/
def slotAt (c : Chip) (link slot : Nat) : Chip :=
  if !c.tideRuns || !c.slotMode || 6 < link || 63 < slot then c
  else
    let c := c.passTo (c.slotStart slot)
    let members := (portsOfDir link).filter fun p => c.portUp p && c.portRole p == 0 && c.slotKind link slot p != 0
    if c.fab.down then c
    else
      let r := members.foldl (fun (r : Chip × Nat) p => r.1.slotAgain (c.slotKind link slot p) p r.2) (c, 96)
      let act := members.filter c.portActive
      let die := portDie (((portsOfDir link).filter c.portActive).headD 0)
      let serves := (c.copyQueue die).head?.elim false fun j => j.link = link
      let fresh := act.filter fun p =>
        let k := c.slotKind link slot p
        (k = 2 || serves || (c.port p).waiting.any fun h => h.m.kind = slotMsgKind k) &&
          !(c.port p).replay.any fun h => h.m.kind = slotMsgKind k
      fresh.foldl (fun c' p => c'.slotFresh (c.slotKind link slot p) die p (r.2 / act.length)) r.1

/-- One copied line at its destination (R319): within the accept window or dropped with slot_overrun; unmapped dropped; the gate
guards moored lines; in FAULTED nothing is written (R368). -/
def copyWrite (c : Chip) (h a : Nat) (line : List PByte) : Chip :=
  if c.dev == .faulted then c else
  let lo := c.regField (R.lnkAcceptBase h) 0 48
  let hi := c.regField (R.lnkAcceptLimit h) 0 48
  if a < lo || hi < a + 127 then c.event (R.lnkEvents h) 5
  else match c.ownerOf a with
    | none => c
    | some b =>
      match (if c.gateOpen b then none else c.mooredAt b (c.toBasin b a)) with
      | some r => c.mooredBlock (c.firstCore b) 0xB 5 r (c.toBasin b a) true
      | none => (c.auditImage (c.firstCore b) b 0xB (c.toBasin b a) 128).poke a line

/-- A COPY message on a port (R319) (log entry 35, DEDUCED). -/
def copyAt (c : Chip) (p dst : Nat) (data : List Byte) (poison : List Bool) (a : FlitIn) : Chip :=
  if !c.tideRuns || !c.portReceives p || !c.slotMode || data.length % 128 ≠ 0 || dst % 128 ≠ 0 then c
  else
    let lines := data.length / 128
    c.receive p (ceilDiv (24 + 144 * lines) 240) a true fun c => foldN lines (fun c i =>
      let line : List PByte := if poison.getD i false then List.replicate 128 none else clean ((data.drop (128 * i)).take 128)
      c.copyWrite (portDie p) (dst + 128 * i) line) c

/-- Bits in which two payloads differ. -/
def bitsOff (l r : List Byte) : Nat := sumN ((l.zip r).map fun x => ones 8 (x.1 ^^^ x.2).toNat)

/-- A TEST message on a port: bit errors counted (R320). -/
def testAt (c : Chip) (p : Nat) (payload : List Byte) (a : FlitIn) : Chip :=
  if !c.tideRuns || !c.portReceives p || !c.slotMode then c
  else c.receive p (ceilDiv (16 + payload.length) 240) a true fun c =>
    c.addField (R.lnkPortCnt p) 32 32 (bitsOff payload (prbsBytes payload.length))

end Chip

/-- A message for other coordinates (R310). -/
def execForward (m : LinkMsg) (s : State) : Host.Outcome State Fault Refusal := s.upd fun c => c.forwardMsg m
/-- A NAK (R313). -/
def execNak (port expected : Nat) (s : State) : Host.Outcome State Fault Refusal := s.upd fun c => c.nakAt port expected
/-- 2 µs without an advance of ack (R313). -/
def execRetry (port : Nat) (s : State) : Host.Outcome State Fault Refusal := s.upd fun c => c.retryAt port
/-- A port fails (R306). -/
def execPortFail (port reason : Nat) (s : State) : Host.Outcome State Fault Refusal := s.upd fun c => c.portFailAt port reason
/-- A PORTCTL flit (R306). -/
def execPortctl (on : PortIn) (failed : Nat) (s : State) : Host.Outcome State Fault Refusal :=
  s.upd fun c => c.portctlAt on.port failed on.flit
/-- A rotation period begins (R304). -/
def execRotationPeriod (s : State) : Host.Outcome State Fault Refusal := s.upd fun c => c.periodAt
/-- Standby begins (R304). -/
def execRotationStandby (s : State) : Host.Outcome State Fault Refusal := s.upd fun c => c.standbyAt
/-- The rotation port joins traffic (R304). -/
def execRotationJoin (s : State) : Host.Outcome State Fault Refusal := s.upd fun c => c.joinAt
/-- A contribution reaches its owner (R327 to R333). -/
def execContrib (m : LinkMsg) (s : State) : Host.Outcome State Fault Refusal := s.upd fun c => c.inbound 1 m fun c => c.takeContrib m
/-- A grant reaches a member (R328). -/
def execGrant (m : LinkMsg) (s : State) : Host.Outcome State Fault Refusal := s.upd fun c => c.inbound 4 m fun c => c.takeGrant m
/-- A result reaches a member (R330, R333). -/
def execResult (m : LinkMsg) (s : State) : Host.Outcome State Fault Refusal :=
  s.upd fun c => c.inbound 2 m fun c => c.takeCargo m true
/-- A gather, broadcast or send cargo reaches a member (R333). -/
def execData (m : LinkMsg) (s : State) : Host.Outcome State Fault Refusal :=
  s.upd fun c => c.inbound 3 m fun c => c.takeCargo m false
/-- A start notice (R260, R341). -/
def execEbbStart (m : LinkMsg) (s : State) : Host.Outcome State Fault Refusal :=
  s.upd fun c => c.floodIn 5 m fun c b => c.noticeStart m b
/-- An end notice (R260, R341). -/
def execEbbEnd (m : LinkMsg) (s : State) : Host.Outcome State Fault Refusal :=
  s.upd fun c => c.floodIn 6 m fun c b => c.noticeEnd m b
/-- A pod barrier's arrival reaches the root (R342). -/
def execBarArrive (m : LinkMsg) (s : State) : Host.Outcome State Fault Refusal :=
  s.upd fun c => c.inbound 7 m fun c => c.barrierArrival m
/-- A pod barrier's release reaches a member (R342, R343). -/
def execBarRelease (m : LinkMsg) (s : State) : Host.Outcome State Fault Refusal :=
  s.upd fun c => c.floodIn 8 m fun c b => c.barrierReleased m b
/-- A slot is active (R318 to R320). -/
def execSlotActive (link slot : Nat) (s : State) : Host.Outcome State Fault Refusal := s.upd fun c => c.slotAt link slot
/-- A COPY message (R319). -/
def execCopy (on : PortIn) (dst : Nat) (data : List Byte) (poison : List Bool) (s : State) : Host.Outcome State Fault Refusal :=
  s.upd fun c => c.copyAt on.port dst data poison on.flit
/-- A TEST message (R320). -/
def execTest (on : PortIn) (payload : List Byte) (s : State) : Host.Outcome State Fault Refusal :=
  s.upd fun c => c.testAt on.port payload on.flit
/-- An IDLE flit (R313, R315). -/
def execIdle (port ack cvc ccount : Nat) (s : State) : Host.Outcome State Fault Refusal :=
  s.upd fun c => c.idleFlit port ack cvc ccount
/-- A tidelink port comes up (R303, R306). -/
def execLinkBringUp (port oneWay : Nat) (s : State) : Host.Outcome State Fault Refusal := s.upd fun c => c.linkUp port oneWay
/-- The quay port comes up (R405); in the two modes of four lanes only the first four lock (Table 11.15). -/
def execQuayLinkUp (locked : Nat) (s : State) : Host.Outcome State Fault Refusal :=
  s.upd fun c => if !c.tideRuns || c.jtagDrives then c
    else c.quayUp (if 2 ≤ c.regField R.quaPhy 0 2 then locked % 16 else locked % 256)

end Sys2Proof.Machine
end

