-- ==== Sys2Proof/Machine/JtagRows.lean ====
section
/-! DEFINITION. The JTAG port (R440, Table 12.24): the instruction register, the data registers it selects, and what private
instructions reach. -/

namespace Sys2Proof.Machine
open Sys2Proof

/-- Codes of the private instructions (Table 12.24). -/
def privateCode (code : Nat) : Bool := decide (0x80 ≤ code) && decide (code ≤ 0xFE)

/-- Codes that Table 12.24 leaves to BYPASS. -/
def bypassCode (code : Nat) : Bool := !(decide (code ≤ 5) || privateCode code)

namespace Chip

/-- A JTAG instruction enters the instruction register and captures its data register. -/
def jtag (c : Chip) (code : Nat) (dr : List Byte) : Chip :=
  if c.dev = .off then c else { c with pilot := { c.pilot with ir := code, dr := dr } }

/-- The quay and every tidelink see loss of signal while the boundary-scan cells drive the lands (R440) (log entry 36, DESIGN CHOICE). -/
def loseSignal (c : Chip) : Chip :=
  if !c.tideRuns then c
  else foldN 32 (fun c p => if c.portUp p && c.portRole p != 2 then c.portFails p 1 else c) c.quayDown

/-- An instruction that gives the lands to the cells. -/
def jtagLands (c : Chip) (code : Nat) (dr : List Byte) : Chip := if c.dev = .off then c else (c.jtag code dr).loseSignal

/-- The IDCODE register (R440). -/
def idcodeBytes (c : Chip) : List Byte := toLE 4 (c.stepping * 2 ^ 28 + 0x2040 * 2 ^ 12 + Config.jep106 % 2048 * 2 + 1)

/-- The IDREAD register (R440): zero before the end of stage FUSE. -/
def idreadBytes (c : Chip) : List Byte :=
  if c.fusesServed then
    toLE 8 (c.reg R.pltBootStatus).toNat ++ c.serial ++ toLE 1 c.life ++ toLE 1 c.fuses.replacements ++ toLE 2 0 ++ c.dieRecords
  else List.replicate 668 0

/-- A private instruction reaches a register, or eight bytes of memory, in BLANK and DEBUG; otherwise it acts as BYPASS (R440).
Which codes reach which is the implementation's (log entry 36, DESIGN CHOICE). -/
def jtagPrivateAt (c : Chip) (code addr : Nat) (write : Option Word) : Chip :=
  if !privateCode code then c
  else if !(c.fusesServed && (c.life == 1 || c.life == 4)) then c.jtag code [0]
  else if Config.jtagMemory code then
    match write with
    | some v => if (c.ownerOf addr).isSome then (c.poke addr (clean (toLE 8 v.toNat))).jtag code (toLE 8 v.toNat) else c.jtag code [0]
    | none => (c.noteRead 0 addr 8).jtag code (plain (c.peek addr 8))
  else
    match write with
    | some v => match c.regWrite addr v with
      | .ok d => d.jtag code (toLE 8 v.toNat)
      | .error _ => c.jtag code [0]
    | none => match c.regRead addr with
      | some v => (c.release addr).jtag code (toLE 8 v.toNat)
      | none => c.jtag code [0]

end Chip

/-- EXTEST (R440). -/
def execExtest (s : State) : Host.Outcome State Fault Refusal := s.upd fun c => c.jtagLands 0 c.pilot.cells
/-- IDCODE (R440). -/
def execIdcode (s : State) : Host.Outcome State Fault Refusal := s.upd fun c => c.jtag 1 c.idcodeBytes
/-- SAMPLE/PRELOAD (R440): the cells take the values shifted in. -/
def execSamplePreload (cells : List Byte) (s : State) : Host.Outcome State Fault Refusal :=
  s.upd fun c => if c.dev == .off then c
    else let d := c.jtag 2 cells; { d with pilot := { d.pilot with cells := cells } }
/-- CLAMP (R440). -/
def execClamp (s : State) : Host.Outcome State Fault Refusal := s.upd fun c => c.jtagLands 3 [0]
/-- HIGHZ (R440). -/
def execHighz (s : State) : Host.Outcome State Fault Refusal := s.upd fun c => c.jtagLands 4 [0]
/-- IDREAD (R440). -/
def execIdread (s : State) : Host.Outcome State Fault Refusal := s.upd fun c => c.jtag 5 c.idreadBytes
/-- A private instruction (R440). -/
def execJtagPrivate (code addr : Nat) (write : Option Word) (s : State) : Host.Outcome State Fault Refusal :=
  s.upd fun c => c.jtagPrivateAt code addr write
/-- BYPASS, and every code of Table 12.24 with no instruction of its own. -/
def execBypass (code : Nat) (s : State) : Host.Outcome State Fault Refusal :=
  s.upd fun c => if bypassCode code then c.jtag code [0] else c
/-- Test-Logic-Reset selects IDCODE (R440). -/
def execTestLogicReset (s : State) : Host.Outcome State Fault Refusal := s.upd fun c => c.jtag 1 c.idcodeBytes

end Sys2Proof.Machine
end

