-- ==== Sys2Proof/Machine/Windows.lean ====
section
/-! DEFINITION. Refresh windows of the stacks: when one starts, its badger work, calibration and hot class (R202 to R207). -/

namespace Sys2Proof.Machine
open Sys2Proof

/-- Edges of a window (R202). -/
def windowEdges : Nat := 120
/-- Cycles of a window period (R202). -/
def windowPeriod : Nat := 3900
/-- First phase of a compiled window W, and of an inserted window H (R202). -/
def phaseW : Nat := 3780
def phaseH : Nat := 1830
/-- Lines of a channel of a stack. -/
def channelLines : Nat := 6291456

namespace Chip

/-- Device address of a line of a stack. -/
def lineAddr (s line : Nat) : Nat := s * stackSize + 128 * line

/-- Cores of a sett that run a schedule (R202). -/
def runningCores (c : Chip) (s : Nat) : List Nat := [2 * s, 2 * s + 1].filter fun i => (c.core i).phase == .run

def isHot (c : Chip) (s : Nat) : Bool := c.regField (R.memStatus s) 0 1 == 1

/-- Bits gone wrong at rest (R192, R194, R208, R218, R242). -/
def takeUpset (c : Chip) (s : Nat) (u : Upset) : Chip :=
  let more (m : Sparse Nat) (k n : Nat) : Sparse Nat := Sparse.set Mem.zeroDefault m k (Sparse.get Mem.zeroDefault m k + n)
  let flip (a sym mask : Nat) : Chip := { c with mem := c.mem.setLineRaw a ((c.mem.lineRaw a).flip sym (mask % 256)) }
  match u with
  | .line l sym mask => if l < 128 * channelLines then flip (lineAddr s l) (sym % 153) mask else c
  | .pinned die off sym mask =>
    if 20 ≤ die && die < 36 && off < c.pinnedWays die * 0x800000 then flip (unitOf (pinnedBase die + off)) (sym % 144) mask else c
  | .way die l sym mask => c.setCache (c.fab.cache.map fun x =>
      if x.die = die && x.line = l then { x with err := x.err.flip (sym % 144) (mask % 256) } else x)
  | .word k off n =>
    if k < 2 && off < 0x3000000 then { c with mem := { c.mem with wordErr := more c.mem.wordErr (unitOf (scratchBase (2 * s + k) + off)) n } }
    else c
  | .vstore k w n => if k < 2 && w < 16 * 16640 then { c with vsErr := more c.vsErr ((2 * s + k) * 16 * 16640 + w) n } else c
  | .vreg k w n => if k < 2 && w < 8192 then { c with vrErr := more c.vrErr ((2 * s + k) * 8192 + w) n } else c
  | .bundle k x w n =>
    if k < 2 then c.setCore (2 * s + k) fun q => { q with queue := q.queue.map fun e =>
      if e.index = x then { e with errs := modifyAt e.errs w (· + n) } else e } else c

/-- The badger reads a line and treats it (R206): a corrected line is written back corrected, an uncorrectable one poisoned,
and a copy in the cache ways follows (R221); in FAULTED nothing is written (R368). -/
def badgerLine (c : Chip) (s line : Nat) : Chip :=
  let a := lineAddr s line
  let code := c.mem.decode c.tmax a
  let c := c.noteLine 0 s a 1
  if c.dev == .faulted then c else
  match code with
  | .corrected => refreshCopies { c with mem := c.mem.settle c.tmax a } a 128
  | .bad => refreshCopies { c with mem := ((c.mem.renew a).zeroBytes a 128).setPoison a true } a 128
  | _ => c

/-- Lines of the repair list that a window serves: of each channel that is not calibrated the oldest `rate` (R203). -/
def repairNow (rate cal : Nat) (l : List Nat) : List Nat :=
  (l.zip (List.range l.length)).filterMap fun x =>
    let ch := x.1 % 128
    if ch ≠ cal && ((l.take x.2).filter fun y => y % 128 = ch).length < rate then some x.1 else none

/-- Whether the patrol of a window meets a line: `rate` lines of every channel from the pointer, less what the repair list took of
that channel. -/
def patrolled (rate cal pos : Nat) (repaired : List Nat) (line : Nat) : Bool :=
  let ch := line % 128
  let room := rate - (repaired.filter fun y => y % 128 = ch).length
  ch != cal && decide ((line / 128 + channelLines - pos) % channelLines < room)

/-- Lines of a stack that hold an error or poison. -/
def markedLines (c : Chip) (s : Nat) : List Nat :=
  let lo := s * stackSize
  let hi := lo + stackSize
  ((c.mem.lineErr.map Prod.fst ++ c.mem.poison.map Prod.fst).filter fun a => lo ≤ a && a < hi).eraseDups.map fun a =>
    (a - lo) / 128

/-- A window's badger work (R203, R206) (log entry 27, DEDUCED). -/
def badgerWork (c : Chip) (s cal : Nat) : Chip :=
  let rate := min 8 (c.regField (R.memCtrl s) 3 4)
  let en := c.regField (R.memCtrl s) 7 1 = 1
  let pos := c.regField (R.memBadger s) 0 23
  let fixed := repairNow rate cal (c.win s).repair
  let c := fixed.foldl (fun c l => c.badgerLine s l) c
  let c := c.setWin s fun w => { w with repair := w.repair.filter fun l => !fixed.contains l }
  if !en then c
  else
    let met (l : Nat) : Bool := patrolled rate cal pos fixed l
    let c := ((c.markedLines s).filter met).foldl (fun c l => c.badgerLine s l) c
    let next := pos + rate
    let c := c.setField (R.memBadger s) 0 23 (next % channelLines)
    if channelLines ≤ next then c.addField (R.memBadger s) 32 32 1 else c

/-- A stack enters and leaves hot class at the start of a window W (R204). -/
def hotClass (c : Chip) (s temp : Nat) : Chip :=
  if 85 < temp && !c.isHot s then (c.event (R.memEvents s) 5).setField (R.memStatus s) 0 1 1
  else if temp ≤ 82 then c.setField (R.memStatus s) 0 1 0 else c

/-- A window of any kind starts (R202, R203, R206, R207). -/
def startWindow (c : Chip) (s temp : Nat) (upsets : List Upset) (marginLow : Bool) : Chip :=
  let st := R.memStatus s
  let slice := c.regField st 2 12
  let cal := slice % 128
  let c := upsets.foldl (fun c u => c.takeUpset s u) c
  let c := c.setField st 24 8 temp
  let c := c.badgerWork s cal
  let c := if marginLow then
      let c := c.event (R.memEvents s) 6
      c.tell 0x14 s 0x0C (c.basinOfSett s) (c.reg (R.memEvents s))
    else c
  let next := (slice + 1) % 4096
  let c := ((c.setField st 2 12 next).setField st 14 7 (next % 128)).addField st 32 32 1
  c.setWin s fun w => { w with left := windowEdges, since := 0, lastTick := c.tide }

/-- The latest of a sett's running cores: its cycle. -/
def laterCycle (c : Chip) (s : Nat) : Option Nat :=
  match (c.runningCores s).map fun i => (c.core i).cycle with
  | [] => none
  | x :: t => some (t.foldl min x)

/-- The cycle of a window's first phase that a sett whose later core is in cycle `m` has reached or comes to next. -/
def phaseCycle (first m : Nat) : Nat :=
  let base := m / windowPeriod * windowPeriod + first
  if m < base + windowEdges then base else base + windowPeriod

/-- Time passes until every running core of a sett has come to cycle `t`. -/
def passPhase (c : Chip) (s t : Nat) : Chip :=
  let far := ((c.runningCores s).map fun i =>
    let k := c.core i
    if k.cycle < t then c.edgesFor i (t - k.cycle) + k.ahead else 0).foldl max 0
  if far = 0 then c else (passEdges 1000 c far).pass 1

/-- A window at a phase of the schedule: the running cores pass their wait cycles up to it, and it starts once the later of them
is there (R202). -/
def phaseWindow (c : Chip) (s first temp : Nat) (upsets : List Upset) (marginLow : Bool) (w : Bool) : Chip :=
  match c.laterCycle s with
  | none => c
  | some m =>
    let t := phaseCycle first m
    let c' := c.passPhase s t
    match c'.laterCycle s with
    | none => c
    | some m' =>
      if m' < t || t < (c.win s).phaseAt then c
      else
        let c' := if w then c'.hotClass s temp else c'
        (c'.startWindow s temp upsets marginLow).setWin s fun x => { x with phaseAt := t + 1 }

/-- Edges that are delivered before a launch that a sett's basin has accepted; none where no launch waits. -/
def edgesToLaunch (c : Chip) (s : Nat) : Option Nat :=
  let x := c.basin (c.basinOfSett s)
  if x.running && !x.live then
    some (deliveredIn c.level c.clk.group (edgesIn (edgesPerFrame c.op) c.clk.framePos (x.t - c.tide)))
  else none

/-- Edges since the previous window's start, or since READY with the first edge among them, at which a free-running window is
due (R202) (log entry 27, DEDUCED). -/
def freeDue (c : Chip) (s : Nat) : Nat := if c.regField (R.memStatus s) 32 32 = 0 then windowPeriod + 1 else windowPeriod

/-- A free-running window: 3,900 sett edges after the start of the previous window, while no core of the sett runs and no launch
edge is within 120 edges (R202, R265). -/
def freeWindow (c : Chip) (s temp : Nat) (upsets : List Upset) (marginLow : Bool) : Chip :=
  if c.clk.stopped then c
  else
    let c' := c.pass (c.ticksFor (c.freeDue s - (c.win s).since))
    let near := match c'.edgesToLaunch s with
      | some e => decide (e < windowEdges)
      | none => false
    if !(c'.runningCores s).isEmpty || near || (c'.win s).since < c.freeDue s then c
    else c'.startWindow s temp upsets marginLow

/-- A guard window: it starts with the first edge that is delivered once 7,800 ticks have passed since the start of the last window,
3,900 in hot class (R205). -/
def guardedWindow (c : Chip) (s temp : Nat) (upsets : List Upset) (marginLow : Bool) : Chip :=
  if c.clk.stopped then c
  else
    let span := if c.isHot s then 3900 else 7800
    let c := passEdges 1000 (c.passTo ((c.win s).lastTick + span)) 1
    (c.startWindow s temp upsets marginLow).event (R.memEvents s) 4

end Chip

/-- A compiled window W (R202, R204). -/
def execCompiledWindow (sett temp : Nat) (upsets : List Upset) (marginLow : Bool) (s : State) :
    Host.Outcome State Fault Refusal :=
  s.upd fun c => if c.tideRuns then c.phaseWindow sett phaseW temp upsets marginLow true else c

/-- An inserted window H, in hot class (R202, R204). -/
def execInsertedWindow (sett temp : Nat) (upsets : List Upset) (marginLow : Bool) (s : State) :
    Host.Outcome State Fault Refusal :=
  s.upd fun c => if c.tideRuns && c.isHot sett then c.phaseWindow sett phaseH temp upsets marginLow false else c

/-- A free-running window (R202). -/
def execFreeRunningWindow (sett temp : Nat) (upsets : List Upset) (marginLow : Bool) (s : State) :
    Host.Outcome State Fault Refusal :=
  s.upd fun c => if c.tideRuns then c.freeWindow sett temp upsets marginLow else c

/-- A guard window (R205). -/
def execGuardWindow (sett temp : Nat) (upsets : List Upset) (marginLow : Bool) (s : State) :
    Host.Outcome State Fault Refusal :=
  s.upd fun c => if c.tideRuns then c.guardedWindow sett temp upsets marginLow else c

end Sys2Proof.Machine
end

