-- ==== Sys2Proof/Machine/Dispatch.lean ====
section
/-! DEFINITION. The dispatch: one arm per command, each a direct call of its meaning. -/

namespace Sys2Proof.Machine
open Sys2Proof

/-- The effect of a command on everything but the queue of waiting commands. -/
def exec (i : Instr) (s : State) : Host.Outcome State Fault Refusal :=
  match i with
  | .nop h => Sys2Proof.Machine.execNop h s
  | .heartbeat h => Sys2Proof.Machine.execHeartbeat h s
  | .regRead h addr => Sys2Proof.Machine.execRegRead h addr s
  | .regWrite h addr value => Sys2Proof.Machine.execRegWrite h addr value s
  | .regReadBlock h addr count => Sys2Proof.Machine.execRegReadBlock h addr count s
  | .pltBasinCutWrite h value => Sys2Proof.Machine.execPltBasinCutWrite h value s
  | .hbcWaysWrite h die value => Sys2Proof.Machine.execHbcWaysWrite h die value s
  | .cacheRangeWrite h sett range value => Sys2Proof.Machine.execCacheRangeWrite h sett range value s
  | .arm h value => Sys2Proof.Machine.execArm h value s
  | .stepLoad h basin value => Sys2Proof.Machine.execStepLoad h basin value s
  | .dvorRingWrite h basin ring value => Sys2Proof.Machine.execDvorRingWrite h basin ring value s
  | .chkStateLoad h core value => Sys2Proof.Machine.execChkStateLoad h core value s
  | .moorDeclare h basin region len value => Sys2Proof.Machine.execMoorDeclare h basin region len value s
  | .lnkTopoWrite h die value => Sys2Proof.Machine.execLnkTopoWrite h die value s
  | .push h die value => Sys2Proof.Machine.execPush h die value s
  | .portModeChange h value => Sys2Proof.Machine.execPortModeChange h value s
  | .memWrite h addr data => Sys2Proof.Machine.execMemWrite h addr data s
  | .memRead h addr len => Sys2Proof.Machine.execMemRead h addr len s
  | .memFill h addr len pattern => Sys2Proof.Machine.execMemFill h addr len pattern s
  | .memDigest h addr len poly => Sys2Proof.Machine.execMemDigest h addr len poly s
  | .progLoad h slot src len => Sys2Proof.Machine.execProgLoad h slot src len s
  | .progBind h slot mode => Sys2Proof.Machine.execProgBind h slot mode s
  | .launchAtTide h t => Sys2Proof.Machine.execLaunchAtTide h t s
  | .launch basin => Sys2Proof.Machine.execLaunch basin s
  | .stepCommit h => Sys2Proof.Machine.execStepCommit h s
  | .gateEvaluation basin => Sys2Proof.Machine.execGateEvaluation basin s
  | .stepDiscard h => Sys2Proof.Machine.execStepDiscard h s
  | .preempt h => Sys2Proof.Machine.execPreempt h s
  | .basinPreempted basin => Sys2Proof.Machine.execBasinPreempted basin s
  | .fabricConfig h topo mask groups => Sys2Proof.Machine.execFabricConfig h topo mask groups s
  | .slotTableLoad h mask entries => Sys2Proof.Machine.execSlotTableLoad h mask entries s
  | .barrierConfig h id group lbar latency => Sys2Proof.Machine.execBarrierConfig h id group lbar latency s
  | .rankAssign h rank ebbGroup entries => Sys2Proof.Machine.execRankAssign h rank ebbGroup entries s
  | .intStatus h => Sys2Proof.Machine.execIntStatus h s
  | .drain h mode replace => Sys2Proof.Machine.execDrain h mode replace s
  | .drainEnter => Sys2Proof.Machine.execDrainEnter s
  | .adjudicationLog h => Sys2Proof.Machine.execAdjudicationLog h s
  | .replicaDigest h mode region base len => Sys2Proof.Machine.execReplicaDigest h mode region base len s
  | .attest h nonce => Sys2Proof.Machine.execAttest h nonce s
  | .identityRead h => Sys2Proof.Machine.execIdentityRead h s
  | .lifecycleSet h token newNonce => Sys2Proof.Machine.execLifecycleSet h token newNonce s
  | .wipe h confirm => Sys2Proof.Machine.execWipe h confirm s
  | .wipeComplete us => Sys2Proof.Machine.execWipeComplete us s
  | .wipeIncomplete die us => Sys2Proof.Machine.execWipeIncomplete die us s
  | .powerPoint h op cap => Sys2Proof.Machine.execPowerPoint h op cap s
  | .thermalRead h r => Sys2Proof.Machine.execThermalRead h r s
  | .bundle core => Sys2Proof.Machine.execBundle core s
  | .fetchLate core edges => Sys2Proof.Machine.execFetchLate core edges s
  | .barrierRelease basin => Sys2Proof.Machine.execBarrierRelease basin s
  | .barrierTimeout core => Sys2Proof.Machine.execBarrierTimeout core s
  | .fabricLate core edges => Sys2Proof.Machine.execFabricLate core edges s
  | .collTimeout basin index => Sys2Proof.Machine.execCollTimeout basin index s
  | .tideWaitRelease core => Sys2Proof.Machine.execTideWaitRelease core s
  | .scheduleComplete basin => Sys2Proof.Machine.execScheduleComplete basin s
  | .adjudication core => Sys2Proof.Machine.execAdjudication core s
  | .streamLate core engine obligation row edges => Sys2Proof.Machine.execStreamLate core engine obligation row edges s
  | .chkLate core edges => Sys2Proof.Machine.execChkLate core edges s
  | .ebbPass core => Sys2Proof.Machine.execEbbPass core s
  | .compiledWindow sett temp upsets marginLow => Sys2Proof.Machine.execCompiledWindow sett temp upsets marginLow s
  | .insertedWindow sett temp upsets marginLow => Sys2Proof.Machine.execInsertedWindow sett temp upsets marginLow s
  | .freeRunningWindow sett temp upsets marginLow => Sys2Proof.Machine.execFreeRunningWindow sett temp upsets marginLow s
  | .guardWindow sett temp upsets marginLow => Sys2Proof.Machine.execGuardWindow sett temp upsets marginLow s
  | .tideSyncPulse => Sys2Proof.Machine.execTideSyncPulse s
  | .refLost die => Sys2Proof.Machine.execRefLost die s
  | .refRecovery die => Sys2Proof.Machine.execRefRecovery die s
  | .controlPeriod r => Sys2Proof.Machine.execControlPeriod r s
  | .fastLimit => Sys2Proof.Machine.execFastLimit s
  | .fastLimitEnd => Sys2Proof.Machine.execFastLimitEnd s
  | .powerTrip cause die value => Sys2Proof.Machine.execPowerTrip cause die value s
  | .enterFaulted code die => Sys2Proof.Machine.execEnterFaulted code die s
  | .boardEnHigh => Sys2Proof.Machine.execBoardEnHigh s
  | .powerGood addrSel => Sys2Proof.Machine.execPowerGood addrSel s
  | .powerGoodTimeout => Sys2Proof.Machine.execPowerGoodTimeout s
  | .boardEnLow => Sys2Proof.Machine.execBoardEnLow s
  | .supplyOff => Sys2Proof.Machine.execSupplyOff s
  | .fuse f d => Sys2Proof.Machine.execFuse f d s
  | .flash image => Sys2Proof.Machine.execFlash image s
  | .verify => Sys2Proof.Machine.execVerify s
  | .config badDie => Sys2Proof.Machine.execConfig badDie s
  | .bootWipe us badDie => Sys2Proof.Machine.execBootWipe us badDie s
  | .ready nonce locked ms => Sys2Proof.Machine.execReady nonce locked ms s
  | .timeout => Sys2Proof.Machine.execTimeout s
  | .bootReport => Sys2Proof.Machine.execBootReport s
  | .keyReport => Sys2Proof.Machine.execKeyReport s
  | .telemetry r => Sys2Proof.Machine.execTelemetry r s
  | .errorReport code die block basin record => Sys2Proof.Machine.execErrorReport code die block basin record s
  | .trngFail => Sys2Proof.Machine.execTrngFail s
  | .replacementBlow => Sys2Proof.Machine.execReplacementBlow s
  | .cmd d e => Sys2Proof.Machine.execCmd d e s
  | .ack d => Sys2Proof.Machine.execAck d s
  | .sendAck flow => Sys2Proof.Machine.execSendAck flow s
  | .openFlow d => Sys2Proof.Machine.execOpenFlow d s
  | .hdata d e => Sys2Proof.Machine.execHdata d e s
  | .rto flow psn => Sys2Proof.Machine.execRto flow psn s
  | .hostTimeout flow tag => Sys2Proof.Machine.execHostTimeout flow tag s
  | .beat => Sys2Proof.Machine.execBeat s
  | .hostSilent => Sys2Proof.Machine.execHostSilent s
  | .arpRequest mgmt addr => Sys2Proof.Machine.execArpRequest mgmt addr s
  | .neighborSolicitation mgmt addr => Sys2Proof.Machine.execNeighborSolicitation mgmt addr s
  | .priorityFlowControl pcp pause => Sys2Proof.Machine.execPriorityFlowControl pcp pause s
  | .xqReset die queue tx port => Sys2Proof.Machine.execXqReset die queue tx port s
  | .xqTimeout die queue => Sys2Proof.Machine.execXqTimeout die queue s
  | .forward m => Sys2Proof.Machine.execForward m s
  | .nak port expected => Sys2Proof.Machine.execNak port expected s
  | .retry port => Sys2Proof.Machine.execRetry port s
  | .portFail port reason => Sys2Proof.Machine.execPortFail port reason s
  | .portctl on failed => Sys2Proof.Machine.execPortctl on failed s
  | .rotationPeriod => Sys2Proof.Machine.execRotationPeriod s
  | .rotationStandby => Sys2Proof.Machine.execRotationStandby s
  | .rotationJoin => Sys2Proof.Machine.execRotationJoin s
  | .contrib m => Sys2Proof.Machine.execContrib m s
  | .grant m => Sys2Proof.Machine.execGrant m s
  | .result m => Sys2Proof.Machine.execResult m s
  | .data m => Sys2Proof.Machine.execData m s
  | .ebbStart m => Sys2Proof.Machine.execEbbStart m s
  | .ebbEnd m => Sys2Proof.Machine.execEbbEnd m s
  | .barArrive m => Sys2Proof.Machine.execBarArrive m s
  | .barRelease m => Sys2Proof.Machine.execBarRelease m s
  | .slotActive link slot => Sys2Proof.Machine.execSlotActive link slot s
  | .copy on dst data poison => Sys2Proof.Machine.execCopy on dst data poison s
  | .test on payload => Sys2Proof.Machine.execTest on payload s
  | .extest => Sys2Proof.Machine.execExtest s
  | .idcode => Sys2Proof.Machine.execIdcode s
  | .samplePreload cells => Sys2Proof.Machine.execSamplePreload cells s
  | .clamp => Sys2Proof.Machine.execClamp s
  | .highz => Sys2Proof.Machine.execHighz s
  | .idread => Sys2Proof.Machine.execIdread s
  | .jtagPrivate code addr write => Sys2Proof.Machine.execJtagPrivate code addr write s
  | .bypass code => Sys2Proof.Machine.execBypass code s
  | .i2cWriteOffset w => Sys2Proof.Machine.execI2cWriteOffset w s
  | .i2cRead r => Sys2Proof.Machine.execI2cRead r s
  | .idle port ack cvc ccount => Sys2Proof.Machine.execIdle port ack cvc ccount s
  | .linkBringUp port oneWay => Sys2Proof.Machine.execLinkBringUp port oneWay s
  | .quayLinkDown => Sys2Proof.Machine.execQuayLinkDown s
  | .quayLinkUp locked => Sys2Proof.Machine.execQuayLinkUp locked s
  | .mgmtLinkDown => Sys2Proof.Machine.execMgmtLinkDown s
  | .mgmtLinkUp => Sys2Proof.Machine.execMgmtLinkUp s
  | .testLogicReset => Sys2Proof.Machine.execTestLogicReset s
  | .barOver core => Sys2Proof.Machine.execBarOver core s

end Sys2Proof.Machine
end

