-- ==== Sys2Proof/Safety.lean ====
section
/-! DEFINITION. The terms in which statements about the machine are made: the shape of a chip, its canonical forms, when a command
is admitted, which command a row is, and what two chips share. -/

namespace Sys2Proof.Machine
open Sys2Proof

/-- The state with another chip; the queue of waiting commands stays. -/
def State.withChip (s : State) (c : Chip) : State := { s with chip := c }

/-- The answer that goes on with another chip. -/
def State.goes (s : State) (c : Chip) : Host.Outcome State Fault Refusal := .next (s.withChip c)

/-- Every stored byte, poison mark and error count of a unit that `P` does not hold of is as it was. -/
abbrev Mem.SameOutside (m d : Mem) (P : Nat → Prop) : Prop :=
  ∀ a, ¬ P (unitOf a) → d.byte a = m.byte a ∧ d.poisoned a = m.poisoned a ∧
    d.lineErrors (unitOf a) = m.lineErrors (unitOf a) ∧ d.wordErrors (unitOf a) = m.wordErrors (unitOf a) ∧
    d.innerErrors (unitOf a) = m.innerErrors (unitOf a)

/-- A range of addresses of one kind of store: all of core scratch, or none of it. -/
abbrev OneStore (a n : Nat) : Prop := 0 < n ∧ ∀ i, i < n → isScratch (a + i) = isScratch a

namespace Chip

/-- The package has its forty cores, four basins, eight program slots, twenty stacks, sixteen flows, thirty-two ports, sixteen
copy queues and seven links. -/
abbrev Shape (c : Chip) : Prop :=
  c.cores.length = 40 ∧ c.basins.length = 4 ∧ c.progs.length = 8 ∧ c.wins.length = 20 ∧ c.quay.flows.length = 16 ∧
    c.fab.ports.length = 32 ∧ c.fab.copies.length = 16 ∧ c.fab.rr.length = 7

/-- A command passes steps 3 and 4 of R391 and finds room among the pending ones (R394). -/
abbrev Admits (c : Chip) (h : Hdr) (op : Nat) (scope : Scope) (wipeOk : Bool) : Prop :=
  c.dev ≠ .off ∧ c.dev ≠ .boot ∧ c.refusalOf h op scope wipeOk = none ∧ c.fullPending = false

/-- A reply with `n` bytes of body fits a frame of the flow that carries it (R397). -/
abbrev Fits (c : Chip) (h : Hdr) (n : Nat) : Prop := c.replyFits h.flow n = true

/-- The chip differs in no more than registers, in those only at addresses that `P` allows, and in what it holds of the present cycle's
events. -/
abbrev OnlyRegs (c d : Chip) (P : Nat → Prop) : Prop :=
  { d with regs := c.regs, fresh := c.fresh } = c ∧ ∀ a, ¬ P a → d.reg a = c.reg a

/-- The chip differs in no more than what replies touch: registers that `P` allows, the quay's flows, pending commands and count of
completed ones, the pilot's count of INTEGRITY_HOLD replies, what has left the package, and what it holds of the present cycle's
events. -/
abbrev OnlyReplied (c d : Chip) (P : Nat → Prop) : Prop :=
  { d with regs := c.regs, quay := c.quay, wire := c.wire, fresh := c.fresh, pilot := { d.pilot with holds := c.pilot.holds } } = c ∧
    ∀ a, ¬ P a → d.reg a = c.reg a

/-- No unit of the package has work under way: every core is idle, in no ebb and no hold, with no stream, no image feed, no scan and no
cycle half done; no basin is in RUN, no write waits for a stack, and nothing waits to be prefetched. -/
abbrev AtRest (c : Chip) : Prop :=
  c.cores.length = 40 ∧ (∀ k ∈ c.cores, k.phase = .idle ∧ k.ebb = none ∧ k.hold = none ∧ k.mvus = [] ∧ k.scan = none ∧
    k.half = false ∧ ∀ g ∈ k.engines, g.fl = none) ∧ (∀ x ∈ c.basins, x.running = false ∧ x.live = false) ∧
    (∀ w ∈ c.wins, w.writes = []) ∧ c.fab.prefetch = []

end Chip

end Sys2Proof.Machine

namespace Sys2Proof
open Sys2Proof.Machine

/-- The command that a row is: its header, its opcode, the opcode's scope, and whether it is served during a wipe; none for an
event (Table 11.7, Table 11.6). -/
def Instr.command : Instr → Option (Hdr × Nat × Scope × Bool)
  | .nop h => some (h, 0x0001, .either, true)
  | .heartbeat h => some (h, 0x0002, .either, true)
  | .regRead h a => some (h, 0x0101, .package, Chip.wipeBlock a)
  | .regReadBlock h a _ => some (h, 0x0103, .package, Chip.wipeBlock a)
  | .regWrite h _ _ | .pltBasinCutWrite h _ | .hbcWaysWrite h _ _ | .cacheRangeWrite h _ _ _ | .arm h _ | .stepLoad h _ _
  | .dvorRingWrite h _ _ _ | .chkStateLoad h _ _ | .moorDeclare h _ _ _ _ | .lnkTopoWrite h _ _ | .push h _ _
  | .portModeChange h _ => some (h, 0x0102, .package, false)
  | .memWrite h _ _ => some (h, 0x0201, .either, false)
  | .memRead h _ _ => some (h, 0x0202, .either, false)
  | .memFill h _ _ _ => some (h, 0x0203, .either, false)
  | .memDigest h _ _ _ => some (h, 0x0204, .either, false)
  | .progLoad h _ _ _ => some (h, 0x0301, .package, false)
  | .progBind h _ _ => some (h, 0x0302, .basin, false)
  | .launchAtTide h _ => some (h, 0x0303, .basin, false)
  | .stepCommit h => some (h, 0x0304, .basin, false)
  | .stepDiscard h => some (h, 0x0305, .basin, false)
  | .preempt h => some (h, 0x0306, .basin, false)
  | .fabricConfig h _ _ _ => some (h, 0x0401, .package, false)
  | .slotTableLoad h _ _ => some (h, 0x0402, .package, false)
  | .barrierConfig h _ _ _ _ => some (h, 0x0403, .package, false)
  | .rankAssign h _ _ _ => some (h, 0x0404, .basin, false)
  | .intStatus h => some (h, 0x0501, .basin, false)
  | .drain h _ _ => some (h, 0x0502, .package, false)
  | .adjudicationLog h => some (h, 0x0503, .basin, false)
  | .replicaDigest h _ _ _ _ => some (h, 0x0504, .basin, false)
  | .attest h _ => some (h, 0x0601, .package, false)
  | .identityRead h => some (h, 0x0602, .package, true)
  | .lifecycleSet h _ _ => some (h, 0x0603, .package, false)
  | .wipe h _ => some (h, 0x0604, .package, false)
  | .powerPoint h _ _ => some (h, 0x0701, .package, false)
  | .thermalRead h _ => some (h, 0x0702, .package, false)
  | _ => none

/-- The register write that a row is: its header, the register and the value. -/
def Instr.regWriteOf : Instr → Option (Hdr × Nat × Word)
  | .regWrite h a v => some (h, a, v)
  | .pltBasinCutWrite h v => some (h, R.pltBasinCut, v)
  | .hbcWaysWrite h d v => some (h, R.hbcWays d, v)
  | .cacheRangeWrite h s r v => some (h, R.memCacheRange s r, v)
  | .arm h v => some (h, R.tidSyncCtrl, v)
  | .stepLoad h b v => some (h, R.seqStepLoad b, v)
  | .dvorRingWrite h b ring v => some (h, if ring then R.seqDvorRing b else R.seqDvorBase b, v)
  | .chkStateLoad h k v => some (h, R.chkStateLoad k, v)
  | .moorDeclare h b r len v => some (h, if len then R.seqMoorLen b r else R.seqMoorBase b r, v)
  | .lnkTopoWrite h d v => some (h, R.lnkTopo d, v)
  | .push h d v => some (h, R.lnkCopyCtrl d, v)
  | .portModeChange h v => some (h, R.quaPhy, v)
  | _ => none

end Sys2Proof
end

