-- ==== Sys2Proof/Certificates/Slice0/Obligations.lean ====
section
/-! DEFINITION. What is claimed of the machine, for the provers: one `Prop` per statement. -/

open Sys2Proof Sys2Proof.Machine

/-! ### The queue, time and replies -/

/-- A step with a command at the front of the queue is `exec` of that command with the queue's rest. -/
def Obligations.StepRunsFrontCommand : Prop :=
  ∀ (i : Instr) (c : Chip) (rest : List Instr),
    step { chip := c, pending := i :: rest } = exec i { chip := c, pending := rest }

/-- Nothing stops the block: every row answers a next state and leaves the queue of waiting commands as it is; a step on an empty queue
lets one tick pass (the model's choice, log entry 10); and since no row of the table has bits no word puts a command into the queue. -/
def Obligations.NothingStopsTheBlock : Prop :=
  (∀ (i : Instr) (s : State), ∃ c : Chip, exec i s = s.goes c) ∧
  (∀ c : Chip, step { chip := c, pending := [] } = .next { chip := c.pass 1, pending := [] }) ∧
    ∀ (s : State) (n w : Nat), s.withFetchWord n w = s ∧ decodeTableWord n w = none

/-- One tick at READY with no unit at work and no change of level or operating point waiting (R230, R235, R236, R239; Tables 07.20,
07.21): the count goes up by one, the position in the frame and in the group moves on, the edge counters of the dies and cores take the
edges produced or delivered, TID_THROTTLE counts those withheld, every window comes nearer to its end; every other register, and every
memory, core, vector register, basin, port and flow, is as it was. -/
def Obligations.TickOfRestingPackageCounts : Prop :=
  ∀ c : Chip, c.Shape → c.AtRest → c.tideRuns = true → c.clk.level = none → c.clk.op = none → c.clk.stopped = false →
    (∀ b, (c.basin b).openAt = none) → (∀ k ∈ c.cores, k.ahead = 0) →
    let d := c.pass 1
    let produced := edgesIn (edgesPerFrame c.op) c.clk.framePos 1
    let delivered := deliveredIn c.level c.clk.group produced
    d.tide = (c.tide + 1) % 2 ^ 64 ∧ d.clk.framePos = (c.clk.framePos + 1) % 10 ∧
      d.clk.group = (c.clk.group + produced) % 64 ∧
      (∀ die, die < 40 → d.regField (R.tidLocalEdges die) 0 64 =
        satAdd 64 (c.regField (R.tidLocalEdges die) 0 64) (if die < 36 then delivered else produced)) ∧
      (∀ i, i < 40 → d.regField (R.tidEdges i) 0 64 = satAdd 64 (c.regField (R.tidEdges i) 0 64) delivered) ∧
      d.regField R.tidThrottle 16 48 = satAdd 48 (c.regField R.tidThrottle 16 48) (produced - delivered) ∧
      d.regField R.tidThrottle 0 16 = c.regField R.tidThrottle 0 16 ∧
      (∀ a, a ≠ R.tidThrottle → (∀ die, die < 40 → a ≠ R.tidLocalEdges die) → (∀ i, i < 40 → a ≠ R.tidEdges i) → d.reg a = c.reg a) ∧
      (∀ s, s < 20 → d.win s = Win.edges delivered (c.win s)) ∧ d.cores = c.cores ∧ d.fab = c.fab ∧
      d.mem = c.mem ∧ d.vregs = c.vregs ∧ d.vstore = c.vstore ∧ d.host = c.host ∧ d.basins = c.basins ∧
      d.quay.flows = c.quay.flows ∧ d.wire = c.wire ∧ d.progs = c.progs ∧ d.fuses = c.fuses ∧ d.pins = c.pins ∧ d.dev = c.dev

/-- Steps 3 and 4 of R391 as one table: DRAINED in DRAIN for the second column of Table 10.12 and in FAULTED for what R368 does not
serve, NOT_IN_STATE during a wipe, BAD_PARAM for a header that does not fit the opcode's scope or, in all but the memory commands, names
no basin of the cut (R50 and R390; log entry 62); a command turned away changes nothing but for its reply. Without power and during boot
no command has any effect. -/
def Obligations.RefusedCommandsOnlyReply : Prop :=
  ∀ (i : Instr) (h : Hdr) (op : Nat) (sc : Scope) (w : Bool) (s : State), i.command = some (h, op, sc, w) →
    let c := s.chip
    let no (st : Status) : Prop := exec i s = s.goes (c.reply h op st [])
    (c.dev = .off ∨ c.dev = .boot → exec i s = s.goes c) ∧
    (c.dev = .drain → op ∈ [0x0201, 0x0203, 0x0301, 0x0302, 0x0303, 0x0304, 0x0305, 0x0306, 0x0403, 0x0404] → no .drained) ∧
    (c.dev = .faulted → op ∉ [0x0002, 0x0101, 0x0103, 0x0202, 0x0601, 0x0602] → no .drained) ∧
    (c.dev = .wipe → w = false → no .notInState) ∧
    (c.dev = .ready → sc = .package → h.pkg = false → (h.basin ≠ 0 ∨ c.basinCount ≠ 1) → no .badParam) ∧
    (c.dev = .ready → sc = .basin → (h.pkg = true ∨ c.basinCount ≤ h.basin) → no .badParam) ∧
    (c.dev = .ready → c.basinCount ≤ h.basin → (h.pkg = false ∨ op ∉ [0x0201, 0x0202, 0x0203, 0x0204]) → no .badParam)

/-- Which headers a command of each scope takes, and a MEM command with the package flag that names memory of any basin. From R50 and
R390: that a basin byte beyond the cut is refused with the package flag too, but in MEM commands, is the model's reading (log entry 62). -/
def Obligations.ScopesOfCommands : Prop :=
  (∀ (c : Chip) (h : Hdr) (op : Nat) (w : Bool), c.dev = .ready →
    let named : Prop := h.basin < c.basinCount ∨ (h.pkg = true ∧ op ∈ [0x0201, 0x0202, 0x0203, 0x0204])
    (c.refusalOf h op .package w = none ↔ (h.pkg = true ∨ (h.basin = 0 ∧ c.basinCount = 1)) ∧ named) ∧
    (c.refusalOf h op .basin w = none ↔ h.pkg = false ∧ h.basin < c.basinCount) ∧
    (c.refusalOf h op .either w = none ↔ named) ∧
    (∀ sc, c.refusalOf h op sc w = none ∨ c.refusalOf h op sc w = some .badParam)) ∧
  (∀ (i : Instr) (h : Hdr) (op : Nat) (sc : Scope) (w : Bool), i.command = some (h, op, sc, w) → sc = Chip.opScope op) ∧
  (∀ (c : Chip) (h : Hdr) (b a n : Nat) (r m : Bool), h.pkg = true →
    c.memCheck h a n r m = c.memCheck { h with basin := b } a n r m)

/-- Replies (R376, R377, R380, R383, R384, R389, R392, R394, R412, R444). A final one on an OPEN flow with send room: one packet in its
frame on the wire with the flow's next sequence number, held for its acknowledgement; the outcome in the entry of SEQ_CMD_LOG that
SEQ_CMD_PTR names; the pilot counts an INTEGRITY_HOLD; nothing else changes.
ACCEPTED_PENDING: the command waits and no outcome is logged. On a flow that is not OPEN nothing leaves, and the outcome is logged. -/
def Obligations.RepliesAreSentAndLogged : Prop :=
  (∀ (c : Chip) (h : Hdr) (op : Nat) (st : Status) (body : List Byte), st ≠ .pending → h.flow < c.quay.flows.length →
    (c.flow h.flow).state = 1 → (c.flow h.flow).unacked.length < min 256 (c.flow h.flow).window →
    (c.flow h.flow).backlog = [] → c.quay.paused = false →
    let d := c.reply h op st body
    let f := c.flow h.flow
    let p := replyPacket h op st c.tide body
    let n := c.regField R.seqCmdPtr 0 6
    d.wire = c.wire ++ [c.packet h.flow 2 0 f.txNext f.rxNext f.session p] ∧
      (d.flow h.flow).txNext = (f.txNext + 1) % 2 ^ 32 ∧
      (d.flow h.flow).unacked = f.unacked ++ [{ psn := f.txNext, type := 2, payload := p, tick := c.tide, retx := false }] ∧
      (∀ g, g ≠ h.flow → d.flow g = c.flow g) ∧
      d.reg (R.seqCmdLog n) = packF [(0, 1, 1), (1, 4, h.flow), (5, 16, op), (21, 8, st.code), (29, 2, h.basin),
        (31, 1, h.pkg.toNat), (32, 32, h.seq)] ∧
      d.regField R.seqCmdPtr 0 6 = (n + 1) % 64 ∧
      d.regField R.seqCmdPtr 32 32 = satAdd 32 (c.regField R.seqCmdPtr 32 32) 1 ∧
      d.quay.completed = c.quay.completed + 1 ∧ d.quay.cmds = c.quay.cmds ∧
      d.pilot.holds = c.pilot.holds + (if st = .hold then 1 else 0) ∧
      c.OnlyReplied d fun a => a = R.seqCmdLog n ∨ a = R.seqCmdPtr ∨ a = R.quaPkts) ∧
  (∀ (c : Chip) (h : Hdr) (op : Nat), h.flow < c.quay.flows.length → (c.flow h.flow).state = 1 →
    (c.flow h.flow).unacked.length < min 256 (c.flow h.flow).window → (c.flow h.flow).backlog = [] → c.quay.paused = false →
    let d := c.hold h op
    let f := c.flow h.flow
    d.wire = c.wire ++ [c.packet h.flow 2 0 f.txNext f.rxNext f.session (replyPacket h op .pending c.tide [])] ∧
      d.quay.cmds = c.quay.cmds ++ [{ h := h, opcode := op, session := f.session }] ∧
      d.quay.completed = c.quay.completed ∧ c.OnlyReplied d fun a => a = R.quaPkts) ∧
  (∀ (c : Chip) (h : Hdr) (op : Nat) (st : Status) (body : List Byte), st ≠ .pending → (c.flow h.flow).state ≠ 1 →
    let d := c.reply h op st body
    d.wire = c.wire ∧ d.quay.flows = c.quay.flows ∧ d.quay.completed = c.quay.completed + 1 ∧
      c.OnlyReplied d fun a => a = R.seqCmdLog (c.regField R.seqCmdPtr 0 6) ∨ a = R.seqCmdPtr)

/-! ### Tidelinks -/

/-- The link layer's rows (R303, R306, R310, R311, R313, R315, R335): a NAK acknowledges what came before and sends the rest again, a retry
sends all again, an IDLE flit acknowledges and returns credits; a port fails on a condition of R306 or when the far end names it, and comes
up unless it has failed; a message for other coordinates goes on by its route, poisoned where its CRC-64 is wrong; a flit out of order or with
a wrong CRC-64 is discarded. What they leave (R307; Tables 09.15, 09.17): an acknowledgement takes from the replay buffer exactly the messages
it covers; the first discard sends a NAK with the expected pseq, a wrong CRC-64 is counted; a failed port is down, in role failed, its first
failure recorded, and its direction no longer rotates; a trained port is up with its cable delay and its direction no longer down. Memory,
cores and basins stay. The model's choices among these are log entry 35's: a PORTCTL flit fails this end's port of the member it names, with
reason 0; a port that comes up has an empty link layer; a retry passes the time to the end of its 2 µs. -/
def Obligations.LinkRowsComplete : Prop :=
  (∀ (s : State), let c := s.chip
     (∀ p n, c.portReceives p = true → let d := c.ackPort p n
       exec (.nak p n) s = s.goes (if (d.port p).replay = [] then d.lateCalibration p else d.restart p)) ∧
     (∀ p, c.portReceives p = true → (c.port p).replay ≠ [] →
       exec (.retry p) s = s.goes ((c.passTo ((c.port p).since + 2000)).restart p)) ∧
     (∀ p a v n, c.portReceives p = true → exec (.idle p a v n) s =
       s.goes ((((c.ackPort p a).setPort p fun x =>
         { x with credits := modifyAt x.credits v fun k => min (fullCredits.getD v 0) (k + n % 32) }).drainWaiting p).lateCalibration p)) ∧
     (∀ p r, c.tideRuns = true → c.portReceives p = true → c.portRole p ≠ 2 → r ≤ 3 → (r = 0 → 16 ≤ (c.port p).retries) →
       (r = 3 → c.portRole p = 1) → exec (.portFail p r) s = s.goes (c.portFails p r)) ∧
     (∀ (on : PortIn) f, c.portReceives on.port = true → let d := c.took on.port 1 on.flit true
       (c.inOrder on.port on.flit = true → ∀ x,
         (portsOfDir (portPlace on.port).1).find? (fun y => (portPlace y).2 = (portPlace f).2) = some x → x ≠ on.port →
         d.portRole x ≠ 2 → d.portUp x = true → exec (.portctl on f) s = s.goes (d.portFails x 0)) ∧
       (c.inOrder on.port on.flit = false → exec (.portctl on f) s = s.goes (c.discarded on.port on.flit))) ∧
     (∀ p w, c.tideRuns = true → c.jtagDrives = false → p < 32 → c.portRole p ≠ 2 → c.portUp p = false →
       exec (.linkBringUp p w) s = s.goes (c.trained p w)) ∧
     (∀ p, c.portReceives p = false → (∀ n, exec (.nak p n) s = s.goes c) ∧ exec (.retry p) s = s.goes c ∧
       (∀ a v n, exec (.idle p a v n) s = s.goes c) ∧ ∀ x f, exec (.portctl { port := p, flit := x } f) s = s.goes c) ∧
     (∀ m, (c.dev = .ready ∨ c.dev = .drain ∨ c.dev = .faulted) → c.portReceives m.port = true → 1 ≤ m.kind → m.kind ≤ 8 →
       c.serviceRole ≠ 2 → (c.forHere m = false ∨ c.serviceRole = 1) →
       let w := c.took m.port (flitsOf m) m.arr false
       let x := if cargoCrcOk m then w else w.cargoFail (w.basinOfHarbour (portDie m.port)) 0 m.port (CargoHdr.parse m.cargo)
       let m' := if cargoCrcOk m then m else poisonCargo m
       let y := if Chip.flooded m.kind = true ∧ x.serviceRole = 1 then x.floodOn { m with port := 0x3F } else x
       (c.inOrder m.port m.arr = false → exec (.forward m) s = s.goes (c.discarded m.port m.arr)) ∧
       (c.inOrder m.port m.arr = true → (Chip.flooded m.kind = false ∨ m.port < 30) → ∀ r, y.routeOf m = some r →
         exec (.forward m) s = s.goes (y.sendDir r.1 (Chip.toHeld r.2 0 m'))) ∧
       (c.inOrder m.port m.arr = true → Chip.flooded m.kind = true → 30 ≤ m.port →
         exec (.forward m) s = s.goes (y.giveCredits m.port m.arr.vc (flitsOf m))))) ∧
  (∀ (c : Chip), c.Shape →
     (∀ p ack, p < 32 → (∀ h ∈ (c.port p).replay, Chip.covers ack h = true → h.m.kind ≠ 3) → let d := c.ackPort p ack
       (d.port p).replay = (c.port p).replay.filter (fun h => !Chip.covers ack h) ∧ (d.port p).acked = ack ∧
         (∀ q, q ≠ p → d.port q = c.port q) ∧ d.mem = c.mem ∧ d.cores = c.cores ∧ d.basins = c.basins) ∧
     (∀ p a, p < 32 → let d := c.discarded p a
       let q := if a.pseq = (c.port p).expect then a.bad.getD 0 else 0
       (d.port p).expect = ((c.port p).expect + q) % 4096 ∧ (d.port p).nakSent = true ∧
         d.regField (R.lnkPortCnt p) 32 32 = satAdd 32 (c.regField (R.lnkPortCnt p) 32 32) a.bad.isSome.toNat ∧
         d.wire = c.wire ++ (if (c.port p).nakSent = true ∧ q = 0 then []
           else [.flit p 2 (ctlFlit 2 0 (d.port p).expect 0 0 [])]) ∧
         d.mem = c.mem ∧ d.cores = c.cores ∧ d.basins = c.basins) ∧
     (∀ p reason, p < 32 → reason < 4 → let d := c.portFails p reason
       let n := portDie p
       d.portUp p = false ∧ d.portRole p = 2 ∧ d.regField (R.lnkEvents n) 1 1 = 1 ∧
         (fbit (c.reg (R.lnkFailRec n)) 0 = false →
           d.reg (R.lnkFailRec n) = packF [(0, 1, 1), (1, 5, p), (6, 2, reason), (8, 56, c.tide)]) ∧
         (p < 30 → c.dirRotating (portPlace p).1 = true → d.dirRotating (portPlace p).1 = false) ∧
         (c.working (portPlace p).1 = [p] → d.regField (R.lnkDir 20 (portPlace p).1) 9 1 = 1) ∧
         d.mem = c.mem ∧ d.cores = c.cores ∧ d.basins = c.basins ∧ d.quay = c.quay) ∧
     (∀ p w, p < 32 → let d := c.trained p w
       d.portUp p = true ∧ d.regField (R.lnkPort p) 10 22 = w % 2 ^ 22 ∧ d.portRole p < 2 ∧ (d.port p).retries = 0 ∧
         d.regField (R.lnkDir 20 (portPlace p).1) 9 1 = 0 ∧
         d.mem = c.mem ∧ d.cores = c.cores ∧ d.basins = c.basins))

/-- Rotation, slots, copies and tests (R304, R305, R317 to R320; Table 09.2): the period's events fall at offsets 0, 8,000,000 and 9,980,000
of 10,000,000 ticks; an enabled slot sends its copy or its test when it comes, spread over the link's active members, and what is
unacknowledged again; each copied line lands within the accept window, in core scratch as in a stack, a closed gate keeps moored lines, and
nothing lands in FAULTED; bit errors of a test are counted. The model's choices among these: what is unacknowledged goes first and the rest of
the 96 flits is shared equally, and the accept window is tested per line (log entry 35); a COPY of k lines is 24 + 144k bytes (log entry 64);
the PRBS31 start (log entry 61). -/
def Obligations.RotationAndSlots : Prop :=
  (∀ (s : State), let c := s.chip
    c.tideRuns = true →
    exec .rotationPeriod s = s.goes (c.passOffset 0).beginPeriod ∧
    exec .rotationStandby s = s.goes (c.passOffset 8000000).beginStandby ∧
    exec .rotationJoin s = s.goes (c.passOffset 9980000).joinTraffic ∧
    (∀ l n, c.slotMode = true → l ≤ 6 → n ≤ 63 →
      let d := c.passTo (c.slotStart n)
      let members := (portsOfDir l).filter fun p => d.portUp p && d.portRole p == 0 && d.slotKind l n p != 0
      let act := members.filter d.portActive
      let die := portDie (((portsOfDir l).filter d.portActive).headD 0)
      let held (p : Nat) : List Held := (d.port p).replay.filter fun h => h.m.kind = Chip.slotMsgKind (d.slotKind l n p)
      ((members = [] ∨ d.fab.down = true) → exec (.slotActive l n) s = s.goes d) ∧
      (∀ k, d.fab.down = false → (∀ p ∈ members, d.slotKind l n p = k ∧ held p = []) →
        (k = 2 ∨ ∃ j rest, d.copyQueue die = j :: rest ∧ j.link = l) →
        exec (.slotActive l n) s = s.goes (act.foldl (fun c p => c.slotFresh k die p (96 / act.length)) d)) ∧
      (∀ p h, d.fab.down = false → members = [p] → held p = [h] → h.flits ≤ 96 →
        exec (.slotActive l n) s = s.goes (d.emit p h))) ∧
    (∀ (on : PortIn) dst data poison, c.portReceives on.port = true → c.slotMode = true → data.length % 128 = 0 → dst % 128 = 0 →
      let k := data.length / 128
      let line (i : Nat) : List PByte :=
        if poison.getD i false then List.replicate 128 none else clean ((data.drop (128 * i)).take 128)
      exec (.copy on dst data poison) s = s.goes (if c.inOrder on.port on.flit = true
        then foldN k (fun c i => c.copyWrite (portDie on.port) (dst + 128 * i) (line i))
          (c.took on.port (ceilDiv (24 + 144 * k) 240) on.flit true)
        else c.discarded on.port on.flit)) ∧
    (∀ (on : PortIn) payload, c.portReceives on.port = true → c.slotMode = true → exec (.test on payload) s =
      s.goes (if c.inOrder on.port on.flit = true
        then (c.took on.port (ceilDiv (16 + payload.length) 240) on.flit true).addField (R.lnkPortCnt on.port) 32 32
          (Chip.bitsOff payload (Chip.prbsBytes payload.length))
        else c.discarded on.port on.flit)) ∧
    (∀ on, c.slotMode = false → (∀ l, exec (.test on l) s = s.goes c) ∧ ∀ dst data poison, exec (.copy on dst data poison) s = s.goes c)) ∧
  (∀ (c : Chip) (k die p n : Nat),
    ((∀ h ∈ (c.port p).waiting, h.m.kind ≠ Chip.slotMsgKind k) → n ≠ 0 → c.replayRoom p n = true →
      (k = 2 → c.slotFresh k die p n = c.startMsg p (Chip.toHeld 5 0 (c.slotMsg 10 (Chip.prbsBytes (240 * n - 16))))) ∧
      (k = 1 → c.slotFresh k die p n = c.sendCopy die p n)) ∧
    (∀ h rest, (c.port p).waiting = h :: rest → h.m.kind = Chip.slotMsgKind k → h.flits ≤ n → c.replayRoom p h.flits = true →
      c.slotFresh k die p n = (c.setPort p fun x => { x with waiting := rest }).startMsg p h)) ∧
  (∀ (c : Chip) (h a : Nat) (line : List PByte), line.length = 128 → a % 128 = 0 → 20 ≤ h → h < 36 → let d := c.copyWrite h a line
    let lo := c.regField (R.lnkAcceptBase h) 0 48
    let hi := c.regField (R.lnkAcceptLimit h) 0 48
    (c.dev = .faulted → d = c) ∧
    (c.dev ≠ .faulted → (a < lo ∨ hi < a + 127) → d.mem = c.mem ∧ d.regField (R.lnkEvents h) 5 1 = 1) ∧
    (lo ≤ a → a + 127 ≤ hi → c.ownerOf a = none → d = c) ∧
    (∀ b, c.dev ≠ .faulted → lo ≤ a → a + 127 ≤ hi → c.ownerOf a = some b →
      (c.gateOpen b = false → (c.mooredAt b (c.toBasin b a)).isSome → d.mem = c.mem) ∧
      ((c.gateOpen b = true ∨ c.mooredAt b (c.toBasin b a) = none) → c.mem.SameOutside d.mem (fun u => a ≤ u ∧ u < a + 128) ∧
        (isScratch a = false → d.peek a 128 = if dirty line then List.replicate 128 none else line) ∧
        (isScratch a = true → (dirty line = false ∨ line = List.replicate 128 none) → d.peek a 128 = line))))

/-- Messages for this package (R260, R310, R325 to R343, R368): each kind is taken whole, its flits acknowledged, and acts, but on no basin in
FAULTED; one out of order is discarded; a flooded one goes on along its tree, in FAULTED too, and every basin but its own acts on it. Pod
barriers and notices: the root releases L_bar after the last arrival and moves the epoch on, once every member has arrived and not before; a
release of the present epoch sets the member's tick and is late past it, one of another epoch is stale; an end notice without its start is
discarded, and one whose start was the last ends the remote hold's causes. Collectives (R325, R328 to R330): a cargo or contribution of
another epoch is stale; one granted contribution joins those of its cargo, one not granted changes nothing; a GRANT sends its contribution
once, one that repeats it changes nothing; the elements of a result do not depend on the order in which contributions came, and each is the
A40 sum of its column in rank order, converted once; a cargo lands once, at its place in dst_addr. The model's choices: what this package
takes, and that an untaken message changes nothing (log entry 35); notices (log entry 13); early messages, other epochs (log entry 24). -/
def Obligations.InboundMessagesComplete : Prop :=
  (∀ (s : State) (m : LinkMsg), let c := s.chip
     let d := c.took m.port (flitsOf m) m.arr true
     let row (i : Instr) (kind : Nat) (relay : Chip → Chip) (f : Chip → Chip) : Prop :=
       (c.takes kind m = true → c.inOrder m.port m.arr = true → exec i s = s.goes (if (relay d).dev = .faulted then relay d else f (relay d))) ∧
       (c.takes kind m = true → c.inOrder m.port m.arr = false → exec i s = s.goes (c.discarded m.port m.arr)) ∧
       (c.takes kind m = false → exec i s = s.goes c)
     let on (d : Chip) : Chip := if m.port = 0x3F ∨ d.serviceRole = 2 then d else d.floodOn { m with port := 0x3F }
     let each (f : Chip → Nat → Chip) (e : Chip) : Chip :=
       (e.basinsIn.filter fun b => !(m.sbasin == b && m.sx == d.here 0 && m.sy == d.here 1 && m.sz == d.here 2)).foldl f e
     row (.contrib m) 1 id (fun c => c.takeContrib m) ∧ row (.result m) 2 id (fun c => c.takeCargo m true) ∧
     row (.data m) 3 id (fun c => c.takeCargo m false) ∧ row (.grant m) 4 id (fun c => c.takeGrant m) ∧
     row (.ebbStart m) 5 on (each fun c b => c.noticeStart m b) ∧ row (.ebbEnd m) 6 on (each fun c b => c.noticeEnd m b) ∧
     row (.barArrive m) 7 id (fun c => c.barrierArrival m) ∧ row (.barRelease m) 8 on (each fun c b => c.barrierReleased m b)) ∧
  (∀ (c : Chip) (m : LinkMsg), c.Shape → m.dbasin < c.basinCount → c.cargoBroken m = false → m.port < 0x3F →
     let b := m.dbasin
     let h := CargoHdr.parse m.cargo
     let good := Chip.cargoCheck m h = none ∧ h.epoch = c.epochOf b
     let group := bits m.body 56 4
     let seq := bits m.body 32 16
     let stale (d : Chip) : Prop := d.basins = c.basins ∧ d.mem = c.mem ∧ d.regField (R.redEvents (c.redAt b)) 5 1 = 1
     (Chip.cargoCheck m h = none → h.epoch ≠ c.epochOf b → stale (c.takeContrib m) ∧ ∀ r, stale (c.takeCargo m r)) ∧
     (∀ i k, good → c.findColl b (Chip.hdrMatches h) = some i → c.coll b i = some k →
       let fresh := (h.cargo, h.src) ∈ k.granted ∧ h.cargo ∉ k.folded ∧ ∀ x ∈ k.contribs, ¬ (x.cargo = h.cargo ∧ x.member = h.src)
       (¬ fresh → c.takeContrib m = c) ∧
       (fresh → ∃ x : Contrib, x.cargo = h.cargo ∧ x.member = h.src ∧ x.payload = m.payload ∧ x.wsum = h.wsum ∧ x.wmag = h.wmag ∧
         x.poisoned = decide (bits h.flags 1 1 = 1) ∧
         c.takeContrib m = ((c.setColl b i fun k => { k with contribs := k.contribs ++ [x] }).pumpColls b).sweepColls b)) ∧
     (∀ r, good → c.findColl b (fun k => Chip.hdrMatches h k && (!r || k.kind == 1) && (r || k.kind != 1)) = none →
       c.takeCargo m r = c.setBasin b fun x => { x with early := x.early ++ [m] }) ∧
     (c.findColl b (fun k => k.reduces && k.group == group && k.seq == seq) = none →
       c.takeGrant m = c.setBasin b fun x => { x with early := x.early ++ [m] }) ∧
     (∀ i k owner, c.findColl b (fun k => k.reduces && k.group == group && k.seq == seq) = some i → c.coll b i = some k →
       (c.collMembers b k).find? (fun r => c.rankPlace b r == some (m.sx, m.sy, m.sz, m.sbasin)) = some owner →
       let j := bits m.body 0 32
       let off := c.srcOff b k ((c.collMembers b k).idxOf owner) j
       let data := c.contribBytes b k off (c.cargoCount b k j)
       ((owner, j) ∈ k.sent → c.takeGrant m = c) ∧
       ((owner, j) ∉ k.sent → c.takeGrant m =
         (((((c.contribNote b k off (c.cargoCount b k j)).postTo b 1 owner j 0
           ((c.contribHdr b k owner j data).seal (plain data)) (plain data)).setColl b i fun k =>
             { k with sent := k.sent ++ [(owner, j)] }).landHeld b i).sweepColls b)))) ∧
  (∀ (k : Coll) (ms : List Nat) (l l' : List Contrib) (n : Nat), k.loose = false → (l.map Contrib.member).Nodup → l.Perm l' →
     Chip.reduceEls k ms l n = Chip.reduceEls k ms l' n ∧
     (l.map Contrib.member = ms → ∀ q v, (Chip.reduceEls k ms l n)[q]? = some v →
       v.1 = convOne k.outF { Rnd.ofBits k.rnd with stoch := false } none
         (decA40 (foldA40 (l.map fun x => (decElts k.inF x.payload).getD q 0))))) ∧
  (∀ (c : Chip) (b i : Nat) (k : Coll) (x : Delivery), c.Shape → b < c.basinCount → c.coll b i = some k → let d := c.landCargo b i x
     let key := Chip.cargoKey k x.s x.j
     let bytes : List PByte := if x.poisoned then x.payload.map fun _ => none else clean x.payload
     (key ∈ k.delivered → d = c) ∧
     (key ∉ k.delivered →
       d.mem = (c.farStore (c.firstCore b) b 0xB 4 true (k.dst + Chip.dstOff k x.s x.j * (k.outF.width / 8)) bytes).mem ∧
       d.regField (R.redStatus (c.redAt b)) 32 32 = satAdd 32 (c.regField (R.redStatus (c.redAt b)) 32 32) 1 ∧
       ∃ k', d.coll b i = some k' ∧ k'.delivered = k.delivered ++ [key])) ∧
  ((∀ (c : Chip) (b id rank tick : Nat), c.Shape → b < c.basinCount → 1 ≤ id → id ≤ 63 → let d := c.rootArrive b id rank tick
     let r := R.redBar (c.redAt b) id
     let others := (c.basin b).arrivals.filter fun a => a.id = id && a.rank ≠ rank
     let all := (c.members b (c.regField r 0 4)).all fun m => m == rank || others.any fun a => a.rank = m
     (all = true → (d.basin b).barRelease = some ((others.foldl (fun t a => max t a.tick) 0 |> max tick) + c.podLbar b id) ∧
       d.regField r 56 8 = (c.regField r 56 8 + 1) % 256 ∧ (∀ a ∈ (d.basin b).arrivals, a.id ≠ id)) ∧
     (all = false → (d.basin b).barRelease = (c.basin b).barRelease ∧ d.regField r 56 8 = c.regField r 56 8 ∧
       { id := id, rank := rank, tick := tick } ∈ (d.basin b).arrivals ∧ d.wire = c.wire) ∧
     d.cores = c.cores ∧ d.mem = c.mem) ∧
   (∀ (c : Chip) (m : LinkMsg) (b : Nat), c.Shape → b < c.basinCount → let d := c.barrierReleased m b
     let id := bits m.body 0 6
     let r := R.redBar (c.redAt b) id
     let ms := c.members b (c.regField r 0 4)
     let t := c.fullTick (bits m.body 14 48)
     ((id = 0 ∨ c.regField r 4 1 = 0 ∨ c.ownRank b ∉ ms) → d = c) ∧
     (∀ root rest, id ≠ 0 → c.regField r 4 1 = 1 → ms = root :: rest → c.ownRank b ∈ ms → c.fromRank b root m = true →
       (bits m.body 6 8 ≠ c.regField r 56 8 → (d.basin b).barRelease = (c.basin b).barRelease ∧
         d.regField (R.redEvents (c.redAt b)) 5 1 = 1 ∧ d.cores = c.cores) ∧
       (bits m.body 6 8 = c.regField r 56 8 → (∀ i ∈ c.coresOf b, i ∈ c.atBarrier b id) →
         (d.basin b).barRelease = some t ∧ d.regField r 56 8 = (c.regField r 56 8 + 1) % 256 ∧
           (t < c.tide → d.regField (R.tidBasinTiming b) 0 1 = 1 ∧ ∀ n ∈ c.settsOf b, d.regField (R.tidEvents n) 4 1 = 1)))) ∧
   (∀ (c : Chip) (m : LinkMsg) (b : Nat), c.Shape → b < c.basinCount → let d := c.noticeEnd m b
     let key := (bits m.body 0 8, bits m.body 8 8)
     (key ∉ (c.basin b).remotes → d = c) ∧
     (bits m.body 16 4 = c.ebbGroup b → c.fromRank b key.1 m = true → (c.basin b).remotes = [key] → (d.basin b).remotes = [] ∧
       ∀ i ∈ c.coresOf b, ∀ e, (c.core i).ebb = some e → ∃ x, (d.core i).ebb = some x ∧ ∀ p ∈ x.pend, p.cause = 6 → p.left = some 0)))

/-! ### JTAG and I²C -/

/-- The JTAG port and the I²C target (R440, R441; Tables 12.13, 12.24): with power each instruction enters the register and captures its
data; EXTEST, CLAMP and HIGHZ take the lands, and every port and the quay lose their signal; a private instruction acts as BYPASS outside
BLANK and DEBUG and before the fuses are read, and reaches a register or eight bytes of memory in them: which, by its code, is the model's
choice (log entry 36); an I²C access that bears the target's address sets the offset or gives bytes from it on, the offset counted modulo
256 (log entry 37, the model's choice), and one at another address changes nothing. -/
def Obligations.JtagAndI2cComplete : Prop :=
  ∀ (s : State), let c := s.chip
    (c.dev ≠ .off →
      let ir (i : Instr) (code : Nat) (dr : List Byte) : Prop :=
        exec i s = s.goes { c with pilot := { c.pilot with ir := code, dr := dr } }
      ir .idcode 1 c.idcodeBytes ∧ ir .testLogicReset 1 c.idcodeBytes ∧ ir .idread 5 c.idreadBytes ∧
      (∀ code, 5 < code → ¬ (0x80 ≤ code ∧ code ≤ 0xFE) → ir (.bypass code) code [0]) ∧
      (∀ code, (code ≤ 5 ∨ (0x80 ≤ code ∧ code ≤ 0xFE)) → exec (.bypass code) s = s.goes c) ∧
      (∀ cells, exec (.samplePreload cells) s =
        s.goes { c with pilot := { c.pilot with ir := 2, dr := cells, cells := cells } }) ∧
      exec .extest s = s.goes (c.jtag 0 c.pilot.cells).loseSignal ∧ exec .clamp s = s.goes (c.jtag 3 [0]).loseSignal ∧
      exec .highz s = s.goes (c.jtag 4 [0]).loseSignal ∧
      (∀ code a w, 0x80 ≤ code → code ≤ 0xFE → ¬ (c.fusesServed = true ∧ (c.life = 1 ∨ c.life = 4)) →
        ir (.jtagPrivate code a w) code [0]) ∧
      (∀ code a, 0x80 ≤ code → code ≤ 0xFE → c.fusesServed = true → (c.life = 1 ∨ c.life = 4) → Config.jtagMemory code = false →
        (∀ v, c.regRead a = some v → exec (.jtagPrivate code a none) s = s.goes ((c.release a).jtag code (toLE 8 v.toNat))) ∧
        (∀ v d, c.regWrite a v = .ok d → exec (.jtagPrivate code a (some v)) s = s.goes (d.jtag code (toLE 8 v.toNat)))) ∧
      (∀ code a, 0x80 ≤ code → code ≤ 0xFE → c.fusesServed = true → (c.life = 1 ∨ c.life = 4) → Config.jtagMemory code = true →
        exec (.jtagPrivate code a none) s = s.goes ((c.noteRead 0 a 8).jtag code (plain (c.peek a 8))) ∧
        (∀ v, (c.ownerOf a).isSome →
          exec (.jtagPrivate code a (some v)) s = s.goes ((c.poke a (clean (toLE 8 v.toNat))).jtag code (toLE 8 v.toNat))))) ∧
    (c.dev = .off → ∀ i ∈ [Instr.idcode, .testLogicReset, .idread, .extest, .clamp, .highz], exec i s = s.goes c) ∧
    (∀ w : I2cAccess, (c.fusesServed = false ∨ w.addr ≠ (if c.pins.addrSel then 0x4D else 0x4C)) →
      exec (.i2cWriteOffset w) s = s.goes c ∧ exec (.i2cRead w) s = s.goes c) ∧
    (c.fusesServed = true → ∀ n, let at' : I2cAccess := { addr := if c.pins.addrSel then 0x4D else 0x4C, n := n }
      exec (.i2cWriteOffset at') s = s.goes { c with pilot := { c.pilot with i2cOff := n % 256, i2cCap := [] } } ∧
      (∃ d : Chip, exec (.i2cRead at') s = s.goes d ∧ d.pilot.i2cOut.length = n ∧
        (c.pilot.i2cOff < 256 → d.pilot.i2cOff = (c.pilot.i2cOff + n) % 256) ∧ { d with pilot := c.pilot } = c ∧
        (∀ f ∈ c.i2cFields, f.1 = c.pilot.i2cOff → n = f.2.length → c.pilot.i2cCap = [] → d.pilot.i2cOut = f.2))) ∧
    (c.dev ≠ .off → c.idcodeBytes.length = 4 ∧ leAt c.idcodeBytes 0 4 % 2 = 1 ∧ bits (leAt c.idcodeBytes 0 4) 12 16 = 0x2040)

/-! ### The whole block -/

/-- A command packet runs the row it spells (R389, R391; Tables 11.4, 11.7): for the request of each opcode, laid out as the table gives
its parameters, with every operand at every value its field holds, the package does what the row does; a header or CRC that is wrong
answers BAD_PARAM, an opcode outside the table BAD_OPCODE. -/
def Obligations.PacketsRunTheirRows : Prop :=
  ∀ (s : State) (h : Hdr) (e : CmdEnv), h.flow < 16 → h.seq < 2 ^ 32 → h.basin < 256 →
    let c := s.chip
    let packet (op : Nat) (q : List Byte) : List Byte :=
      let b := toLE 4 0x444D4351 ++ toLE 1 1 ++ toLE 1 h.pkg.toNat ++ toLE 2 op ++ toLE 4 h.seq ++ toLE 1 h.basin ++ toLE 3 0 ++
        toLE 4 q.length ++ toLE 12 0 ++ q
      b ++ toLE 4 (crc32c b)
    let runs (op : Nat) (q : List Byte) (i : Instr) : Prop := exec i s = s.goes (c.runPacket h.flow (packet op q) e)
    runs 0x0001 [] (.nop h) ∧ runs 0x0002 [] (.heartbeat h) ∧
    (∀ a n, a < 2 ^ 32 → n < 2 ^ 32 → runs 0x0101 (toLE 4 a ++ toLE 4 0) (.regRead h a) ∧
      runs 0x0103 (toLE 4 a ++ toLE 4 n) (.regReadBlock h a n)) ∧
    (∀ a (v : Word), a < 2 ^ 32 → runs 0x0102 (toLE 4 a ++ toLE 4 0 ++ toLE 8 v.toNat) (.regWrite h a v)) ∧
    (∀ a (d : List Byte), a < 2 ^ 64 → d.length ≤ 8192 → d.length % 4 = 0 →
      runs 0x0201 (toLE 8 a ++ toLE 4 d.length ++ toLE 4 0 ++ d) (.memWrite h a d)) ∧
    (∀ a n p (v : Word), a < 2 ^ 64 → n < 2 ^ 32 → p < 2 ^ 32 → runs 0x0202 (toLE 8 a ++ toLE 4 n ++ toLE 4 0) (.memRead h a n) ∧
      runs 0x0203 (toLE 8 a ++ toLE 8 n ++ toLE 8 v.toNat) (.memFill h a n v) ∧
      runs 0x0204 (toLE 8 a ++ toLE 8 n ++ toLE 4 p ++ toLE 4 0) (.memDigest h a n p)) ∧
    (∀ x m a n, x < 256 → m < 256 → a < 2 ^ 64 → n < 2 ^ 64 →
      runs 0x0301 (toLE 1 x ++ toLE 7 0 ++ toLE 8 a ++ toLE 8 n) (.progLoad h x a n) ∧
      runs 0x0302 (toLE 1 x ++ toLE 1 m ++ toLE 6 0) (.progBind h x m) ∧ runs 0x0303 (toLE 8 a) (.launchAtTide h a) ∧
      runs 0x0504 (toLE 1 x ++ toLE 1 m ++ toLE 6 0 ++ toLE 8 a ++ toLE 8 n) (.replicaDigest h x m a n) ∧
      runs 0x0604 (toLE 8 a) (.wipe h a) ∧ runs 0x0502 (toLE 1 x ++ toLE 1 m ++ toLE 2 0) (.drain h x m)) ∧
    runs 0x0304 [] (.stepCommit h) ∧ runs 0x0305 [] (.stepDiscard h) ∧ runs 0x0306 [] (.preempt h) ∧
    runs 0x0501 [] (.intStatus h) ∧ runs 0x0503 [] (.adjudicationLog h) ∧ runs 0x0602 [] (.identityRead h) ∧
    runs 0x0702 [] (.thermalRead h e.readings) ∧
    (∀ (v : Word) m (g : List Nat), m < 2 ^ 16 → g.length = 16 → (∀ x ∈ g, x < 2 ^ 256) →
      runs 0x0401 (toLE 8 v.toNat ++ toLE 2 m ++ toLE 6 0 ++ g.flatMap (toLE 32)) (.fabricConfig h v m g)) ∧
    (∀ m (t : List Byte), m < 256 → t.length = 448 → runs 0x0402 (toLE 1 m ++ toLE 7 0 ++ t) (.slotTableLoad h m t)) ∧
    (∀ x g l, x < 256 → g < 256 → l < 2 ^ 32 →
      runs 0x0403 (toLE 1 x ++ toLE 1 g ++ toLE 2 0 ++ toLE 4 l) (.barrierConfig h x g l e.latency)) ∧
    (∀ r g (t : List Nat), r < 256 → g < 256 → t.length ≤ 2046 → (∀ x ∈ t, x < 2 ^ 32) →
      runs 0x0404 (toLE 1 r ++ toLE 1 g ++ toLE 2 t.length ++ toLE 4 0 ++ t.flatMap (toLE 4)) (.rankAssign h r g t)) ∧
    (∀ q : List Byte, (q.length = 32 → runs 0x0601 q (.attest h q)) ∧ (q.length = 5520 → runs 0x0603 q (.lifecycleSet h q e.nonce))) ∧
    (∀ op cap, op < 256 → cap < 2 ^ 16 → runs 0x0701 (toLE 1 op ++ toLE 1 0 ++ toLE 2 cap ++ toLE 4 0) (.powerPoint h op cap)) ∧
    (∀ op (q : List Byte), op < 2 ^ 16 → q.length ≤ 8224 → q.length % 4 = 0 →
      op ∉ [0x0001, 0x0002, 0x0101, 0x0102, 0x0103, 0x0201, 0x0202, 0x0203, 0x0204, 0x0301, 0x0302, 0x0303, 0x0304, 0x0305, 0x0306,
        0x0401, 0x0402, 0x0403, 0x0404, 0x0501, 0x0502, 0x0503, 0x0504, 0x0601, 0x0602, 0x0603, 0x0604, 0x0701, 0x0702] →
      c.runPacket h.flow (packet op q) e = c.reply h op .badOpcode [])

/-- Every step keeps the package's shape, which most statements take as their premise, and the memory's canonical form: addresses strictly
rising in every part, no entry equal to what an unlisted one reads as; so equal memories are equal data. -/
def Obligations.StepsKeepMemoryCanonical : Prop :=
  (∀ (s t : State), s.chip.Shape → step s = .next t → t.chip.Shape) ∧
  (∀ (s t : State), s.chip.mem.wf = true → step s = .next t → t.chip.mem.wf = true) ∧
  (∀ (m n : Mem), m.wf = true → n.wf = true → (∀ a, m.byte a = n.byte a) → m.cells = n.cells)

/-- The state after reset (R15, R425; the values the spec gives, and those of log entry 3): READY at count zero with nothing waiting, the
shape of the package, a memory in canonical form, one basin, no gate open, no step, no drain, OP0 at level 64, every core idle. -/
def Obligations.ResetState : Prop :=
  let c := State.reset.chip
  State.reset.pending = [] ∧ c.Shape ∧ c.mem.wf = true ∧ c.AtRest ∧ c.dev = .ready ∧ c.tide = 0 ∧ c.basinCount = 1 ∧ c.op = 0 ∧
    c.level = 64 ∧ c.tideRuns = true ∧ c.anyRun = false ∧ c.anyUndecided = false ∧ c.anyBound = false ∧ c.reg R.seqDrain = 0 ∧
    (∀ b, b < 4 → c.gateOpen b = false ∧ c.reg (R.seqStep b) = 0) ∧ (∀ a, c.mem.byte a = 0 ∧ c.mem.poisoned a = false) ∧
    (∀ f, f < 16 → (c.flow f).state = 0) ∧ c.wire = []

/-! ### Numbers and draws -/

/-- Numbers (R59 to R62, R64 to R67, R69, R72, R73, R76): a value that a linear format holds is encoded as it was read, every not-a-number
as the canonical one; an A40 sum does not depend on the order of its addends, an exact zero is +0; a product is R64's word and does not
depend on the order of its operands; a code of L8 or L16 converts back to itself in either mode; bfloat16 takes the 16 discarded bits as
its P. An output of a MATVEC (R126, R129) on a core without a fault is the sum R129 writes out: in each segment of 64 panels the slices'
pairwise trees of products, missing leaves +0, one after another, and the segments' sums one after another. -/
def Obligations.NumbersRoundOnce : Prop :=
  (∀ x : F32, encF32 (decF32 x) = if (decF32 x).isNan then 0x7FC00000 else x) ∧
  (∀ x : A40, encA40 (decA40 x) = if (decA40 x).isNan then 0x7FF8000000 else x) ∧
  (∀ x, x < 2 ^ 16 → binBf.enc (binBf.dec x) = if (binBf.dec x).isNan then 0x7FC0 else x) ∧
  (∀ x y : A40, a40Add x y = a40Add y x) ∧
  (∀ x : A40, a40Finite x = true → a40Add x (a40Neg x) = 0 ∧ (x ≠ 0x8000000000 → a40Add x 0 = x)) ∧
  (∀ a b : LogVal, product a b = product b a) ∧
  (∀ (f g : Fmt) (x y sx sy : Nat) (na nb : Bool) (la lb ea eb : Int) (ka kb : Nat), sx < 255 → sy < 255 →
    x < 2 ^ f.width → y < 2 ^ g.width → decLog f x sx = .fin na la ka ea → decLog g y sy = .fin nb lb kb eb →
    let n := max ka kb
    let q := (la * (n / ka : Nat) + ea * n) + (lb * (n / kb : Nat) + eb * n)
    let i := q / (n : Int)
    let p := (product (.fin na la ka ea) (.fin nb lb kb eb)).1
    p.toNat = (na != nb).toNat * 2 ^ 39 + (i + 1023).toNat * 2 ^ 28 + tab n (q % n).toNat ∧ -270 ≤ i ∧ i ≤ 269) ∧
  (∀ (f : Fmt) (r : Rnd) (u : Option Nat) (code : Nat), f = .l8 ∨ f = .l16 → code < 2 ^ f.width →
    convLog f r u (decElt f code 127) = { code := code }) ∧
  (∀ (x : F32) (r : Rnd) (u : Nat), u < 2 ^ 16 → x.toNat % 2 ^ 31 < 0x7F7F8000 →
    let m := x.toNat % 2 ^ 31
    convLinear .bf16 r (some u) (decF32 x) =
      { code := x.toNat / 2 ^ 31 * 2 ^ 15 + min (m / 2 ^ 16 + if u < m % 2 ^ 16 then 1 else 0) 0x7F7F }) ∧
  (∀ (m : Matvec) (bytes : List PByte) (rs : List Resident) (r : Resident) (i o : Nat) (row : List Acc) (y : Acc), 0 < m.slice →
    rs[i]? = some r → (groupOut m (MvuFlips.of []) bytes rs).outs[i]? = some row → row[o]? = some y →
    let products (s : List Panel × Nat) : List A40 :=
      (((r.x.drop (2048 * s.2)).take (32 * s.1.length)).zip (s.1.flatMap fun p => p.w.getD o [])).map fun e => (product e.1 e.2).1
    let slice (q : List A40) : A40 := tree a40Add 0 (q ++ List.replicate (m.slice - q.length) 0)
    y.v = (chunks 64 (panelsOf m.wf bytes)).zipIdx.foldl (fun total s =>
      a40Add total ((chunks m.slice (products s)).foldl (fun seg q => a40Add seg (slice q)) 0)) 0)

/-- Draws (R284, R285, R287, R288; Tables 08.1, 08.2): the probe gives tuird_draw for the seed of its sett and the words written to it, which
are the words Table 08.1 makes of a consumer's position; a core's draws depend on its seed, step, rank, launch and place in its basin alone;
no seed is written while a basin's step is undecided, and no launch is accepted while its setts hold different seeds or ranks. -/
def Obligations.DrawsDependOnPositionAlone : Prop :=
  (∀ (c : Chip) (s step stream rank launch core lane index : Nat), s < 20 → step < 2 ^ 64 → index < 2 ^ 64 → stream < 256 → rank < 256 →
    launch < 256 → core < 64 → lane < 512 →
    (c.reg (R.rngProbeStep s)).toNat = step → (c.reg (R.rngProbeLo s)).toNat = index →
    (c.reg (R.rngProbeHi s)).toNat = lane + core * 2 ^ 9 + rank * 2 ^ 15 + launch * 2 ^ 23 + stream * 2 ^ 32 →
    ∃ lo hi : Word, c.regRead (R.rng s 6) = some lo ∧ c.regRead (R.rng s 7) = some hi ∧
      lo.toNat + hi.toNat * 2 ^ 64 = tuirdDraw (c.seedOf s) step stream rank launch core lane index ∧
      tuirdDraw (c.seedOf s) step stream rank launch core lane index < 2 ^ 128) ∧
  (∀ (c : Chip) (k lane index stream : Nat), lane < 512 → index < 2 ^ 64 → stream < 256 → let s := k / 2
    let b := c.basinOfCore k
    (c.drawCtx k).u stream lane index = tuirdDraw (c.seedOf s) (c.reg (R.seqStep b)).toNat stream (c.regField (R.rngIdent s) 0 8)
      (c.regField (R.rngIdent s) 8 8) (k - c.firstCore b) lane index % 2 ^ 16) ∧
  (∀ (c : Chip) (s : Nat) (hi : Bool) (v : Word), s < 20 → let a := if hi then R.rngSeedHi s else R.rngSeedLo s
    (c.dev = .ready → c.undecided (c.basinOfSett s) = true → c.regWrite a v = .error .notInState) ∧
    (c.undecided (c.basinOfSett s) = false → c.dev ≠ .drain → c.regWrite a v = .ok (c.plainWrite a v) ∧
      (c.plainWrite a v).reg a = v)) ∧
  (∀ (s : State) (h : Hdr) (t : Nat), let c := s.chip
    c.Admits h 0x0303 .basin false → c.regField R.seqDrain 0 1 = 0 →
    (∃ n ∈ c.settsOf h.basin, ∃ m ∈ c.settsOf h.basin,
      c.seedOf n ≠ c.seedOf m ∨ c.regField (R.rngIdent n) 0 8 ≠ c.regField (R.rngIdent m) 0 8) →
    exec (.launchAtTide h t) s = s.goes (c.reply h 0x0303 .badParam []))

/-! ### Units at work -/

/-- Streams (R210, R211, R213; Table 06.8): row i1 + n1 × i2 lies at the far and at the near address plus its strides, modulo 2^48; its slot
is cycle Q(j); it takes the least number of near cycles that move 2,048 bytes each. A slot whose engine is free and whose descriptor reads
clean puts its stream on that engine alone, which is busy to Q of the last row, and for OUT to the end of that row's ordering deadline;
no byte of memory, no vector register and no other core changes in the issue. -/
def Obligations.StreamsTakeTheirEngine : Prop :=
  (∀ (s : Stream) (issue i1 i2 : Nat), i1 < s.n1 → let j := i1 + s.n1 * i2
    s.farOf j = (((s.far : Int) + i1 * s.fs1 + i2 * s.fs2) % 2 ^ 48).toNat ∧
    s.nearOf j = (((s.near : Int) + i1 * s.ns1 + i2 * s.ns2) % 2 ^ 48).toNat ∧
    s.q issue j = issue + max s.base s.c + j * max s.step s.c ∧
    s.bytes ≤ s.c * 2048 ∧ (0 < s.bytes → (s.c - 1) * 2048 < s.bytes)) ∧
  (∀ (c : Chip) (k n e i cyc : Nat) (loose : Bool) (l : List Byte), c.Shape → k < 40 → c.engineBusy k e cyc = false →
    c.descBytes k 7 i 64 = some l → let s := Stream.ofDesc (fromLE l)
    let d := c.streamIssue k n e i loose cyc
    let last := s.q cyc (s.n1 * s.n2 - 1) + if s.out then s.c - 1 + s.post else 0
    (∃ g f, (d.core k).engines[e]? = some g ∧ g.fl = some f ∧ f.s = s ∧ f.loose = loose ∧ f.requested = 0 ∧ f.moved = 0 ∧
      g.issue = cyc ∧ g.rows = s.n1 * s.n2 ∧ g.dir = s.out.toNat ∧ g.busyTo = some last) ∧
    (∀ t, t ≤ last → d.engineBusy k e t = true) ∧
    (∀ x, x ≠ e → (d.core k).engines[x]? = (c.core k).engines[x]?) ∧ (∀ j, j ≠ k → d.core j = c.core j) ∧
    (∀ a, d.mem.byte a = c.mem.byte a) ∧ d.vregs = c.vregs ∧ d.quay = c.quay)

/-- Scans (R225, R226; Tables 06.14, 06.15): the running state over a range read in pieces is that over the whole, and the check value is
the running state under the final XOR. A slot whose unit is free and whose descriptor reads clean starts a scan from the initial value, or
goes on from CHK_STATE; a scan of own scratch without a stored result ends in its fixed cycle, a far one at dl, in the slot's own cycle
where dl is 0; a length of 0 is a schedule error. In its last cycle a scan takes what remains; CHK_STATE then holds the running state, a
final scan's CHK_RESULT the check value, CHK_STATUS the polynomial, the poison and the count. -/
def Obligations.ScansGiveCheckValues : Prop :=
  (∀ (poly st : Nat) (a b : List PByte), Chip.scanBytes poly st (a ++ b) = Chip.scanBytes poly (Chip.scanBytes poly st a) b ∧
    crc poly (plain a) = Chip.scanBytes poly (crcInit poly) a ^^^ crcXor poly) ∧
  (∀ (c : Chip) (k i cyc : Nat) (loose : Bool) (l : List Byte), c.Shape → k < 40 → (∀ x, (c.core k).chkBusyTo = some x → x < cyc) →
    c.descBytes k 7 i 32 = some l → let v := fromLE l
    let d := c.checkIssue k i loose cyc
    (bits v 48 32 = 0 → (d.core k).scan = (c.core k).scan ∧ d.regField (R.chkEvents k) 0 1 = 1) ∧
    (bits v 48 32 ≠ 0 → ((c.isNear k (bits v 0 48 / 64 * 64) = true ∧ bits v 108 1 = 0) ∨ bits v 84 24 ≠ 0) → ∃ s, (d.core k).scan = some s ∧ (d.core k).chkBusyTo = some s.last ∧ s.t0 = cyc ∧ s.a = bits v 0 48 / 64 * 64 ∧
      s.n = 64 * bits v 48 32 ∧ s.poly = bits v 80 2 ∧ s.pos = 0 ∧
      (bits v 82 1 = 0 → s.st = crcInit s.poly ∧ s.bad = false) ∧
      (bits v 82 1 = 1 → s.poly = 2 → s.st = (c.reg (R.chkState k)).toNat) ∧
      (c.isNear k s.a = true → bits v 108 1 = 0 → s.last = cyc + (s.n + 255) / 256 + 2) ∧
      (c.isNear k s.a = false → s.last = cyc + bits v 84 24) ∧
      ∀ j, j ≠ k → d.core j = c.core j) ∧
    (bits v 48 32 ≠ 0 → c.isNear k (bits v 0 48 / 64 * 64) = false → bits v 84 24 = 0 → bits v 108 1 = 0 → (c.core k).cycle = cyc →
      (d.core k).scan = none ∧ (d.core k).chkBusyTo = some cyc ∧
      d.regField (R.chkStatus k) 8 24 = (c.regField (R.chkStatus k) 8 24 + 1) % 2 ^ 24)) ∧
  (∀ (c : Chip) (k : Nat) (s : Scan), c.Shape → k < 40 → (c.core k).scan = some s → (c.core k).cycle = s.last → s.own = true →
    s.res = none → s.poly < 4 → let d := c.scanCycle k
    let data := if s.n - s.pos = 0 then [] else c.nearPeek k 9 (s.a + s.pos) (s.n - s.pos)
    let st := Chip.scanBytes s.poly s.st data
    (d.core k).scan = none ∧ d.reg (R.chkState k) = BitVec.ofNat 64 st ∧
      (s.final = true → d.reg (R.chkResult k) = BitVec.ofNat 64 (st ^^^ crcXor s.poly) ∧ d.regField (R.chkStatus k) 1 1 = 1) ∧
      (s.final = false → d.reg (R.chkResult k) = c.reg (R.chkResult k)) ∧
      d.regField (R.chkStatus k) 2 1 = (s.bad || dirty data).toNat ∧ d.regField (R.chkStatus k) 3 2 = s.poly ∧
      d.regField (R.chkStatus k) 8 24 = (c.regField (R.chkStatus k) 8 24 + 1) % 2 ^ 24 ∧ (∀ a, d.mem.byte a = c.mem.byte a))

/-- Vector register writes (R147, R160): a write waits for the end of its cycle, so that a later cycle sees it and its own does not; of
writes to one lane in one cycle the higher-numbered stage's stands; no other core's registers change. Vector results (R153, R154, R162,
R163; Tables 05.7, 05.8): an arithmetic stage gives its function of the lane's operands with the OR of their tags; CMP-SELECT in select form
gives one of its two operands, tags and all; a reduction does not depend on the values of masked lanes, and one of masked lanes alone writes
its identity. -/
def Obligations.VectorWritesLandInOrder : Prop :=
  (∀ (c : Chip) (k : Nat), c.Shape → k < 40 → (∀ w ∈ (c.core k).vrPend, w.reg < 32 ∧ w.lanes.length ≤ 512) → let d := c.vrSettle k
    let at' (c : Chip) (k r l : Nat) : Lane := Sparse.get laneDefault c.vregs (vrKey k r l)
    let now := (c.core k).cycle
    (d.core k).vrPend = (c.core k).vrPend.filter (fun w => decide (now ≤ w.cycle)) ∧
    (∀ r l, r < 32 → l < 512 →
      match ((c.core k).vrPend.filter fun w => w.cycle < now && w.reg = r && l < w.lanes.length).getLast? with
      | some w => w.lanes[l]? = some (at' d k r l)
      | none => at' d k r l = at' c k r l) ∧
    (∀ j r l, j ≠ k → r < 32 → l < 512 → at' d j r l = at' c j r l) ∧ (∀ j, j ≠ k → d.core j = c.core j) ∧
    (∀ w ∈ (c.core k).vrPend, w.cycle < now → ∀ i, 2 * i + 1 < w.lanes.length →
      Sparse.get Mem.zeroDefault d.vrErr (vrKey k w.reg (2 * i) / 2) = 0) ∧
    d.mem = c.mem ∧ d.regs = c.regs) ∧
  (∀ (w : VrWrite) (ws : List VrWrite), let le (x y : VrWrite) : Prop := x.cycle < y.cycle ∨ (x.cycle = y.cycle ∧ x.stage ≤ y.stage)
    (∀ x, x ∈ vrInsert w ws ↔ x = w ∨ x ∈ ws) ∧ (ws.Pairwise le → (vrInsert w ws).Pairwise le)) ∧
  (∀ (g : Stg) (pos : Nat) (x b c : Opnd), let r := (laneStage g pos x (some b) (some c)).1
    (g.kind ∈ [1, 2, 3, 4, 5, 6, 7, 9] → r.val = arith g x.val b.val c.val ∧ r.poison = (x.poison || b.poison || c.poison) ∧
      r.mask = (x.mask || b.mask || c.mask)) ∧
    (g.kind = 8 → g.func < 8 → let y := if f32Rel g.func x.val b.val = true then c else x
      r.val = y.val ∧ r.poison = y.poison ∧ r.mask = y.mask)) ∧
  (∀ (red pos : Nat) (l m : List Opnd),
    (l.map (fun x => if x.mask then none else some x) = m.map (fun x => if x.mask then none else some x) →
      redTree red pos l = redTree red pos m) ∧
    ((∀ x ∈ l, x.mask = true) → ∀ argmax, redValue red argmax (redTree red pos l) =
      if argmax then 0xBF800000 else if red = 1 then 0x80000000 else if red = 2 then 0xFF800000 else 0x7F800000))

/-- Blocks of the arrays (R96, R100, R105 to R107, R109, R114; Tables 03.10, 03.11): where no unit is faulty every block commits and its
verdict leaves no trace; a withheld block's output locations, scales included, are written poisoned; an adjudicated block commits unless
its verdict is UNRESOLVED or its release fails, and no other block's fate changes; any verdict is recorded in the adjudication log and
drains the package with replacement owed; a block whose staged words hold a double error, or whose two datapaths disagree, is withheld.
The verdict stands with edge 247 of the adjudication, the event with its last, 1,023 (R107). -/
def Obligations.VerdictsDecideBlocks : Prop :=
  (∀ (c : Chip) (p : Pass) (tiles : List (List Column)) (q : Nat) (bs : List (Berth × List VecOut)), c.defects = [] →
    c.judge p tiles q bs = (c, List.replicate bs.length .commit)) ∧
  (∀ (c : Chip) (p : Pass) (b : Berth) (j : Nat) (f : Fmt), c.Shape → p.core < 40 → b.yFmt = some f → (c.core p.core).now.wins = [] →
    let y := b.al 112 48 + j * b.al 160 16
    let z := b.al 176 48 + j * (p.cols / 32)
    c.allNear p.core y (f.bytes p.cols) = true → (f.isBlock = true → c.allNear p.core z (p.cols / 32) = true) →
    let d := c.withholdVec p b j
    (d.core p.core).now.queue = (c.core p.core).now.queue ++ [(c.nearDev p.core y, List.replicate (f.bytes p.cols) none)] ++
      (if f.isBlock then [(c.nearDev p.core z, List.replicate (p.cols / 32) none)] else []) ∧
      d.mem = c.mem ∧ ∀ k, k ≠ p.core → d.core k = c.core k) ∧
  (∀ (c : Chip) (k : Nat) (a : Adj), c.Shape → k < 40 → a.verdict < 8 → a.array < 4 → let d := c.settle k a
    let s := k / 2
    let i := c.regField (R.intAdjPtr s) 32 4
    (∀ f ∈ (c.core k).passes, f.p.t = a.passStart → ∃ g ∈ (d.core k).passes, g.p = f.p ∧ g.tiles = f.tiles ∧
      (∀ e ∈ f.fates, e.1 ≠ a.block → e ∈ g.fates) ∧
      ∀ l, (a.block, l) ∈ f.fates → ∃ m, (a.block, m) ∈ g.fates ∧ m.length = l.length ∧
        (∀ x, x ≠ f.bs.findIdx (fun b => b.array = a.array && b.b = a.berth) → m[x]? = l[x]?) ∧
        (∀ x, x = f.bs.findIdx (fun b => b.array = a.array && b.b = a.berth) → x < l.length →
          m[x]? = some (if a.verdict = 3 then .withhold else
            ((c.verdict k a.passSeq a).releaseBlock k a.array (((c.core k).passes.find? fun f => f.p.t = a.passStart).elim [] fun f =>
              f.p.blockParts c.defects a.block)).2))) ∧
    (∀ f ∈ (c.core k).passes, f.p.t ≠ a.passStart → f ∈ (d.core k).passes) ∧
    fget (d.reg (R.intAdjLog s i)) 0 1 = 1 ∧ fget (d.reg (R.intAdjLog s i)) 1 3 = a.verdict ∧ fget (d.reg (R.intAdjLog s i)) 5 2 = a.array ∧
    d.regField (R.intAdjPtr s) 32 4 = (i + 1) % 16 ∧
    d.regField (R.intAdjPtr s) 0 32 = satAdd 32 (c.regField (R.intAdjPtr s) 0 32) 1 ∧
    d.regField R.seqDrain 0 1 = 1 ∧ d.regField R.seqDrain 3 1 = 1 ∧
    d.mem = c.mem ∧ (∀ j, j ≠ k → d.core j = c.core j)) ∧
  (∀ (c : Chip) (k array : Nat) (fs : List Part), k < 40 → array < 4 →
    ((∃ n, 2 ≤ n ∧ .staging array n ∈ fs) → (c.releaseBlock k array fs).2 = .withhold) ∧
    (.commit array ∈ fs → (c.releaseBlock k array fs).2 = .withhold) ∧
    ((∀ n, .staging array n ∈ fs → n < 2) → .commit array ∉ fs → (c.releaseBlock k array fs).2 = .commit) ∧
    ((∀ n, .staging array n ∉ fs) → .commit array ∉ fs → c.releaseBlock k array fs = (c, .commit))) ∧
  (∀ (c : Chip) (k n x : Nat) (a : Adj), c.Shape → k < 40 → (c.core k).adjRun = [(a, n)] →
    (n + x < 248 → 0 < x → c.adjEdges 2 k x = c.setCore k fun q => { q with adjRun := [(a, n + x)] }) ∧
    (n < 1024 → x = 1024 - n → let d := c.adjEdges 2 k x
      (d.core k).adjRun = [] ∧ d.regField (R.arrEvents k) 1 1 = 1))

/-! ### Queries and registers -/

/-- The commands that only ask (R12, R14, R43, R371, R397, R406, R431, R465; Tables 11.7, 11.10, 12.8, 13.9): each that is admitted and
whose body fits a frame COMPLETES: NOP, HEARTBEAT, INT_STATUS, ADJUDICATION_LOG, IDENTITY_READ and THERMAL_READ are answered OK with their
bodies, THERMAL_READ having taken its readings into PWR and MEM registers; REG_READ and REG_READ_BLOCK of defined registers answer their
values and release their RO-L fields (a mesh flit of the access that fails its CRC-32C is recorded, log entry 6). One whose body does not
fit, an address that names none, a count of 0 or above 1,024, or a run past the last index answers BAD_PARAM and changes nothing else.
What the bodies hold: the count first in a heartbeat; gate, step status and drain, then twelve words a sett in INT_STATUS; the pointer and
the sixteen entries of each sett, oldest first, in ADJUDICATION_LOG. -/
def Obligations.QueriesAreAnswered : Prop :=
  (∀ (s : State) (h : Hdr) (r : Readings), let c := s.chip
    (c.Admits h 0x0001 .either true → c.Fits h 0 → exec (.nop h) s = s.goes (c.reply h 0x0001 .ok [])) ∧
    (c.Admits h 0x0002 .either true → c.Fits h c.beatBody.length →
      exec (.heartbeat h) s = s.goes (c.reply h 0x0002 .ok c.beatBody)) ∧
    (c.Admits h 0x0501 .basin false → c.Fits h (c.intBody h.basin).length →
      exec (.intStatus h) s = s.goes (c.reply h 0x0501 .ok (c.intBody h.basin))) ∧
    (c.Admits h 0x0503 .basin false → c.Fits h (c.adjBody h.basin).length →
      exec (.adjudicationLog h) s = s.goes (c.reply h 0x0503 .ok (c.adjBody h.basin))) ∧
    (c.Admits h 0x0602 .package true → c.Fits h c.identityRecord.length →
      exec (.identityRead h) s = s.goes (c.reply h 0x0602 .ok c.identityRecord)) ∧
    (c.Admits h 0x0702 .package false → c.Fits h ((c.takeReadings r).thermalBody r).length →
      exec (.thermalRead h r) s = s.goes ((c.takeReadings r).reply h 0x0702 .ok ((c.takeReadings r).thermalBody r))) ∧
    (c.Admits h 0x0002 .either true → c.replyFits h.flow c.beatBody.length = false →
      exec (.heartbeat h) s = s.goes (c.reply h 0x0002 .badParam [])) ∧
    (c.Admits h 0x0501 .basin false → c.replyFits h.flow (c.intBody h.basin).length = false →
      exec (.intStatus h) s = s.goes (c.reply h 0x0501 .badParam [])) ∧
    (c.Admits h 0x0503 .basin false → c.replyFits h.flow (c.adjBody h.basin).length = false →
      exec (.adjudicationLog h) s = s.goes (c.reply h 0x0503 .badParam [])) ∧
    (c.Admits h 0x0602 .package true → c.replyFits h.flow c.identityRecord.length = false →
      exec (.identityRead h) s = s.goes (c.reply h 0x0602 .badParam [])) ∧
    (c.Admits h 0x0702 .package false → c.replyFits h.flow ((c.takeReadings r).thermalBody r).length = false →
      exec (.thermalRead h r) s = s.goes (c.reply h 0x0702 .badParam []))) ∧
  (∀ (c : Chip) (b : Nat),
    (c.beatBody.length = 64 ∧ leAt c.beatBody 0 8 = c.tide % 2 ^ 64 ∧ leAt c.beatBody 8 1 = c.devCode % 256 ∧
      leAt c.beatBody 9 1 = c.basinCount ∧ leAt c.beatBody 48 4 = c.quay.beats % 2 ^ 32) ∧
    ((c.intBody b).length = 24 + 96 * (c.settsOf b).length ∧ leAt (c.intBody b) 0 8 = (c.viewAt (R.seqGate b)).toNat ∧
      leAt (c.intBody b) 8 8 = (c.viewAt (R.seqStepStatus b)).toNat ∧ leAt (c.intBody b) 16 8 = (c.viewAt R.seqDrain).toNat) ∧
    ((c.adjBody b).length = 136 * (c.settsOf b).length ∧ ∀ n rest, c.settsOf b = n :: rest →
      leAt (c.adjBody b) 0 8 = (c.reg (R.intAdjPtr n)).toNat ∧ ∀ i, i < 16 →
        leAt (c.adjBody b) (8 * (i + 1)) 8 = (c.reg (R.intAdjLog n ((c.regField (R.intAdjPtr n) 32 4 + i) % 16))).toNat)) ∧
  (∀ (s : State) (h : Hdr) (a : Nat), let c := s.chip
    (c.Admits h 0x0101 .package (Chip.wipeBlock a) →
      (∀ v, c.regRead a = some v →
        (c.Fits h 8 → exec (.regRead h a) s = s.goes (((c.release a).meshReg a).reply h 0x0101 .ok (toLE 8 v.toNat))) ∧
        (c.replyFits h.flow 8 = false → exec (.regRead h a) s = s.goes (c.reply h 0x0101 .badParam []))) ∧
      (regAt a = none → exec (.regRead h a) s = s.goes (c.reply h 0x0101 .badParam []))) ∧
    (c.Admits h 0x0103 .package (Chip.wipeBlock a) → ∀ n,
      (0 < n → n ≤ 1024 → raIndex a + n ≤ 2 ^ 17 → (∀ i, i < n → (regAt (a + 8 * i)).isSome) → c.Fits h (8 * n) →
        ∃ vs : List Word, vs.length = n ∧ (∀ i, i < n → c.regRead (a + 8 * i) = vs[i]?) ∧
          exec (.regReadBlock h a n) s = s.goes ((((List.range n).foldl (fun c i => c.release (a + 8 * i)) c).meshReg a).reply h 0x0103 .ok
            (vs.flatMap fun v => toLE 8 v.toNat))) ∧
      (n = 0 ∨ 1024 < n ∨ 2 ^ 17 < raIndex a + n ∨ (∃ i, i < n ∧ regAt (a + 8 * i) = none) ∨ c.replyFits h.flow (8 * n) = false →
        exec (.regReadBlock h a n) s = s.goes (c.reply h 0x0103 .badParam []))))

/-- A register access by access type, bit by bit (R10, R12, R14): a read releases the latch of the RO-L fields of the register it names
and of nothing else; a plain write takes the written RW bits, a one clears a W1C-S flag that the hardware has not set in this very cycle
and a zero leaves it, every other bit (RO, RO-L, WO, reserved) is as it was, and so is everything else. Events and latches (R11, R12): `n`
hardware events set the flag and add `n` to its companion counter, which saturates, and touch no other bit and no other register; an RO-L
record keeps the first capture until it is read and then takes the next one. In one cycle: an event wins over the write that clears its
flag, and a record that an event finds held when it is read gives the earlier value and keeps the event. That a cycle lasts until the tide
count next moves (cycleNow, which the clauses on caught, missed and set-wins rest on) is the model's choice, log entry 60. -/
def Obligations.RegisterAccessByType : Prop :=
  ((∀ (c : Chip) (a : Nat) (r : RegInfo), regAt a = some r →
      let x := c.canon a
      c.OnlyRegs (c.release a) (fun y => y = x) ∧
      (x ∉ c.cycleNow.caught → (∀ m ∈ c.cycleNow.missed, m.1 ≠ x) →
        ((c.release a).reg x &&& fieldsMask r.rol = 0) ∧ (c.release a).reg x = c.reg x &&& ~~~ fieldsMask r.rol) ∧
      (x ∈ c.cycleNow.caught → c.release a = c)) ∧
    (∀ (c : Chip) (a : Nat) (v : Word) (r : RegInfo), regAt a = some r →
      let x := c.canon a
      let d := c.plainWrite a v
      (∀ i, i < 64 →
        (d.reg x).getLsbD i =
          if (fieldsMask r.rw).getLsbD i then v.getLsbD i
          else if (fieldsMask r.w1c).getLsbD i then (c.reg x).getLsbD i && !(v.getLsbD i && !(c.cycleNow.mask x).getLsbD i)
          else (c.reg x).getLsbD i) ∧
        c.OnlyRegs d fun y => y = x)) ∧
  ((∀ (c : Chip) (a f n : Nat), f < 64 → 0 < n → let d := c.events a f n
      d.regField a f 1 = 1 ∧ (∀ g, g < 64 → g ≠ f → d.regField a g 1 = c.regField a g 1) ∧
        d.regField (a + 8 * (f + 1)) 0 32 = satAdd 32 (c.regField (a + 8 * (f + 1)) 0 32) n ∧
        d.regField (a + 8 * (f + 1)) 32 32 = c.regField (a + 8 * (f + 1)) 32 32 ∧
        c.OnlyRegs d fun x => x = a ∨ x = a + 8 * (f + 1)) ∧
    (∀ (c : Chip) (a : Nat) (v w : Word), fbit v 0 = true → fbit (c.reg a) 0 = false →
      (c.latch a v).reg a = v ∧ ((c.latch a v).latch a w).reg a = v ∧ c.OnlyRegs (c.latch a v) fun x => x = a) ∧
    (∀ (c : Chip) (a : Nat) (r : RegInfo) (w : Word), regAt a = some r → c.canon a = a → (fieldsMask r.rol).getLsbD 0 = true →
      a ∉ c.cycleNow.caught → (∀ m ∈ c.cycleNow.missed, m.1 ≠ a) → (((c.release a).latch a w).reg a = w)) ∧
    (∀ (c : Chip) (a f : Nat) (r : RegInfo) (v : Word), regAt a = some r → f < 64 → (c.event a f).canon a = a →
      (fieldsMask r.rw).getLsbD f = false → ((c.event a f).plainWrite a v).regField a f 1 = 1) ∧
    (∀ (c : Chip) (a : Nat) (r : RegInfo) (w : Word), regAt a = some r → r.rol ≠ [] → c.canon a = a → fbit (c.reg a) 0 = true →
      a ∉ c.cycleNow.caught → (∀ m ∈ c.cycleNow.missed, m.1 ≠ a) → (c.latch a w).canon a = a → let d := c.latch a w
      d.reg a = c.reg a ∧ d.regRead a = c.regRead a ∧ (d.release a).reg a = w))

/-- Every row that is a register write (R14): REG_WRITE, PLT_BASIN_CUT, HBC_WAYS, MEM_CACHE_RANGE, ARM, SEQ_STEP_LOAD, the Dvor ring,
CHK_STATE_LOAD, the moored regions, LNK_TOPO, push and the port mode: what the register's own rule makes of the value, then OK; the
rule's status where it turns the value away; BAD_PARAM with nothing changed where the address names no register. A mesh flit of the access
that fails its CRC-32C is recorded (log entry 6). -/
def Obligations.RegisterWriteRows : Prop :=
  ∀ (i : Instr) (h : Hdr) (a : Nat) (v : Word) (s : State), i.regWriteOf = some (h, a, v) →
    let c := s.chip
    c.Admits h 0x0102 .package false →
    (∀ d, c.regWrite a v = .ok d → c.Fits h 0 → exec i s = s.goes ((d.meshReg a).reply h 0x0102 .ok [])) ∧
    (∀ st, c.regWrite a v = .error st → exec i s = s.goes (c.reply h 0x0102 st [])) ∧
    (regAt a = none → exec i s = s.goes (c.reply h 0x0102 .badParam []))

/-- The rules single registers add to a write (R49, R219, R231, R282, R300, R308, R351, R374, R378, R385): for each row that writes one of
them, the conditions under which it is accepted, and what it then does; what a basin in RUN forbids; and what a change of cut leaves, by its
row of Table 14.7: its count, the steps, records and moored regions at reset, gates closed, seeds zero, launch index and rank zero with the
core indices of the new basins, no rank assigned, memory and cores as they were. -/
def Obligations.SpecialRegisterWrites : Prop :=
  ∀ (c : Chip) (v : Word),
    (fget v 0 2 ≠ 3 → fget v 0 2 ≠ c.cut → (∀ b, b < c.basinCount → c.freeBasin b = true) →
      c.regWrite R.pltBasinCut v = .ok (c.changeCut (fget v 0 2))) ∧
    (∀ n r, n < 20 → r < 8 → c.freeBasin (c.basinOfSett n) = true → c.regWrite (R.memCacheRange n r) v =
      .ok ((c.plainWrite (R.memCacheRange n r) v).dropLines fun l => l.line / Chip.stackSize = n)) ∧
    (fbit v 0 = true → c.anyRun = false → c.regWrite R.tidSyncCtrl v =
      .ok ((c.setField (Chip.refStatus 38) 3 1 1).setField (Chip.refStatus 39) 3 1 1)) ∧
    (∀ b, b < c.basinCount → c.freeBasin b = true → c.regWrite (R.seqStepLoad b) v =
      .ok ((c.settsOf b).foldl (fun c n => c.setField (R.rngIdent n) 8 8 0) (c.put (R.seqStep b) v))) ∧
    (∀ b, b < c.basinCount → c.undecided b = false → fget v 0 12 = 0 →
      (let n := c.regField (R.seqDvorRing b) 0 16
       c.inBasinDram (fget v 0 48) (max n 1 * 4096) = true →
       (∀ m ∈ c.moored b, Chip.rangesMeet (fget v 0 48) (n * 4096) m.1 m.2 = false) →
       c.regWrite (R.seqDvorBase b) v = .ok (c.plainWrite (R.seqDvorBase b) v))) ∧
    (∀ b, b < c.basinCount → c.undecided b = false →
      (let base := c.regField (R.seqDvorBase b) 0 48
       c.inBasinDram base (max (fget v 0 16) 1 * 4096) = true →
       (∀ m ∈ c.moored b, Chip.rangesMeet base (fget v 0 16 * 4096) m.1 m.2 = false) →
       c.regWrite (R.seqDvorRing b) v = .ok ((c.plainWrite (R.seqDvorRing b) v).setField (R.seqDvorRing b) 16 16 0))) ∧
    (∀ k, k < 40 → (c.core k).scan = none → c.regWrite (R.chkStateLoad k) v = .ok (c.put (R.chkState k) v)) ∧
    (∀ b r, b < c.basinCount → r < 64 → c.dev = .ready → c.undecided b = false → c.running b = false →
      (c.mayMoor b (fget v 0 48) (c.regField (R.seqMoorLen b r) 0 36 * 4096) (fbit v 63) = true →
        c.regWrite (R.seqMoorBase b r) v = .ok (c.plainWrite (R.seqMoorBase b r) v)) ∧
      (c.mayMoor b (c.regField (R.seqMoorBase b r) 0 48) (fget v 0 36 * 4096) (fbit (c.reg (R.seqMoorBase b r)) 63) = true →
        c.regWrite (R.seqMoorLen b r) v = .ok (c.plainWrite (R.seqMoorLen b r) v))) ∧
    (∀ h, 20 ≤ h → h < 36 → Chip.topoLegal v = true → c.anyRun = false →
      c.regWrite (R.lnkTopo h) v = .ok (c.plainWrite (R.lnkTopo h) v)) ∧
    (fget v 0 2 ≠ c.regField R.quaPhy 0 2 → c.anyRun = false →
      c.regWrite R.quaPhy v = .ok ((c.plainWrite R.quaPhy v).setField R.quaPhy 2 9 0)) ∧
    (c.anyRun = true →
      (∀ h, 20 ≤ h → h < 36 → Chip.topoLegal v = true → c.regWrite (R.lnkTopo h) v = .error .notInState) ∧
      (fget v 0 2 ≠ c.regField R.quaPhy 0 2 → c.regWrite R.quaPhy v = .error .notInState) ∧
      (∀ a ∈ [R.quaIp4, R.quaIp6Lo, R.quaIp6Hi], c.regWrite a v = .error .notInState) ∧
      (∀ n, n < 4 → c.regWrite (R.quaPeerLo n) v = .error .notInState ∧ c.regWrite (R.quaPeerHi n) v = .error .notInState) ∧
      (1518 ≤ fget v 0 14 → fget v 0 14 ≤ 9216 → c.regWrite R.quaNet v = .error .notInState) ∧
      (∀ n a, n < 16 → a ∈ [R.quaAperDev n, R.quaAperHost n, R.quaAperLen n] → (let d := c.plainWrite a v
        Chip.aperLegal (d.reg (R.quaAperDev n)) (d.reg (R.quaAperHost n)) (d.reg (R.quaAperLen n)) = true →
        c.regWrite a v = .error .notInState)) ∧
      (fbit v 0 = true → c.regWrite R.tidSyncCtrl v = .error .notInState)) ∧
    (∀ cut, cut < 3 → let d := c.changeCut cut
      d.cut = cut ∧ d.regField R.pltBasinCut 8 32 = satAdd 32 (c.regField R.pltBasinCut 8 32) 1 ∧ d.basins = List.replicate 4 Basin.reset ∧
      (∀ b, b < 4 → d.regField (R.seqGate b) 0 2 = 0 ∧ d.regField (R.seqDvorRing b) 0 32 = 0 ∧
        d.regField (R.seqDvorRing b) 32 32 = c.regField (R.seqDvorRing b) 32 32 ∧
        (∀ a ∈ [R.tidBasinTiming b, R.seqStep b, R.seqStepStatus b, R.seqDvorBase b, R.seqPackAddr b], d.reg a = 0) ∧
        ∀ r, r < 64 → d.reg (R.seqMoorBase b r) = 0 ∧ d.reg (R.seqMoorLen b r) = 0) ∧
      (∀ n, n < 20 → d.reg (R.rngSeedLo n) = 0 ∧ d.reg (R.rngSeedHi n) = 0 ∧
        d.reg (R.rngIdent n) = packF [(16, 6, 2 * n % d.coreCount), (22, 6, 2 * n % d.coreCount + 1)]) ∧
      (∀ b, b < d.basinCount → d.regField (R.redIdent (d.redAt b)) 0 13 = 0 ∧ ∀ i, i < 64 → d.reg (R.redRankmap (d.redAt b) i) = 0) ∧
      d.mem = c.mem ∧ d.cores = c.cores ∧ d.progs = c.progs)

/-- A write of LNK_COPY_CTRL with push (R319, Table 09.19): BAD_PARAM for a length or source off a line, BUSY with sixteen copies
queued, else the copy joins the die's queue and done clears, one of no lines with none before it being done at once; without push nothing is
queued. That a length or source off a line is BAD_PARAM, and that a copy of no lines is done at once, are the model's choices (log entry
18). -/
def Obligations.PushQueuesACopy : Prop :=
  ∀ (c : Chip) (h : Nat) (v : Word), 20 ≤ h → h < 36 → c.fab.copies.length = 16 →
    let a := R.lnkCopyCtrl h
    let src := c.regField (R.lnkCopySrc h) 0 48
    let dst := c.reg (R.lnkCopyDst h)
    let job : CopyJob := { src := src, dst := fget dst 0 48, link := fget dst 48 3, len := fget v 0 40 }
    (fbit v 40 = true → (fget v 0 40 % 128 ≠ 0 ∨ src % 128 ≠ 0) → c.regWrite a v = .error .badParam) ∧
    (fbit v 40 = true → fget v 0 40 % 128 = 0 → src % 128 = 0 → 16 ≤ (c.copyQueue h).length →
      c.regWrite a v = .error .busy) ∧
    let under := ∃ p, p < 32 ∧ ∃ x ∈ (c.port p).replay ++ (c.port p).waiting, x.job = h
    (fbit v 40 = true → fget v 0 40 = 0 → src % 128 = 0 → c.copyQueue h = [] → ¬ under → ∃ d : Chip,
      c.regWrite a v = .ok d ∧ d.copyQueue h = [] ∧ d.regField (R.lnkCopyStatus h) 5 1 = 1) ∧
    (fbit v 40 = true → fget v 0 40 % 128 = 0 → src % 128 = 0 → (c.copyQueue h).length < 16 →
      (((c.copyQueue h ++ [job]).headD job).len ≠ 0 ∨ under) → ∃ d : Chip,
      c.regWrite a v = .ok d ∧ d.copyQueue h = c.copyQueue h ++ [job] ∧
      d.regField (R.lnkCopyStatus h) 5 1 = 0 ∧ (∀ x, 20 ≤ x → x < 36 → x ≠ h → d.copyQueue x = c.copyQueue x) ∧
      (∀ x, x ≠ a → x ≠ R.lnkCopyStatus h → d.reg x = c.reg x) ∧
      { d with regs := c.regs, fab := { d.fab with copies := c.fab.copies } } = c) ∧
    (fbit v 40 = false → ∃ d : Chip, c.regWrite a v = .ok d ∧ c.OnlyRegs d fun y => y = a)

/-- A change of pinned ways (R219): only where the basin that owns the die is in READY with no program bound; the ways that stop being
pinned lose their contents, newly pinned ones read as zero, every cache way is invalid; more than 24 is BAD_PARAM. -/
def Obligations.PinnedWaysChange : Prop :=
  ∀ (c : Chip) (h : Nat) (v : Word), 20 ≤ h → h < 36 →
    let p := fget v 0 5
    let old := c.pinnedWays h
    (24 < p → c.regWrite (R.hbcWays h) v = .error .badParam) ∧
    (p ≤ 24 → p ≠ old → c.freeBasin (c.basinOfHarbour h) = false → c.regWrite (R.hbcWays h) v = .error .notInState) ∧
    (p ≤ 24 → p = old → c.regWrite (R.hbcWays h) v = .ok c) ∧
    (p ≤ 24 → p ≠ old → c.freeBasin (c.basinOfHarbour h) = true → ∃ d : Chip, c.regWrite (R.hbcWays h) v = .ok d ∧
      d.pinnedWays h = p ∧
      (∀ o, min p old * 0x800000 ≤ o → o < max p old * 0x800000 → d.mem.byte (Chip.pinnedBase h + o) = 0) ∧
      (∀ o, min p old * 0x800000 ≤ o → o < max p old * 0x800000 → d.mem.poisoned (Chip.pinnedBase h + o) = false) ∧
      (∀ a, (a < Chip.pinnedBase h + min p old * 0x800000 ∨ Chip.pinnedBase h + max p old * 0x800000 ≤ a) →
        d.mem.byte a = c.mem.byte a) ∧
      (∀ l ∈ d.fab.cache, l.die ≠ h) ∧ (∀ l ∈ c.fab.cache, l.die ≠ h → l ∈ d.fab.cache) ∧
      { d with regs := c.regs, mem := c.mem, fab := { d.fab with cache := c.fab.cache } } = c)

/-! ### Memory -/

/-- The memory commands (R398, R353): each that is admitted and whose range passes its checks completes with its effect and its
reply; MEM_DIGEST of a device range at once, and of a basin's window range through its apertures once its host data is all there, the units
being taken meanwhile (BUSY). What they turn away (R50, R353, R398,
Table 11.7): BAD_PARAM for a range that is empty, off the eight-byte grid, not within one region, or outside the basin named;
NOT_IN_STATE for all but MEM_READ while an owner of the range is in RUN, and for MEM_WRITE and MEM_FILL into a moored region of
an undecided step. That a second digest meanwhile is BUSY is log entry 5's reading; that a window range is digested over the host bytes the
apertures give (windowBytes, farPeek) is the model's choice, log entry 17. -/
def Obligations.MemoryCommandsComplete : Prop :=
  (∀ (s : State) (h : Hdr) (a n : Nat) (data : List Byte) (pattern : Word) (poly : Nat), let c := s.chip
     (c.Admits h 0x0201 .either false → data.length ≤ 8192 → c.memCheck h a data.length false true = none → c.Fits h 0 →
       exec (.memWrite h a data) s = s.goes ((c.memStore a data).reply h 0x0201 .ok [])) ∧
     (c.Admits h 0x0202 .either false → n ≤ 8192 → c.memCheck h a n true false = none → c.Fits h (8 + n) →
       exec (.memRead h a n) s =
         s.goes ((c.noteRead 0 a n).reply h 0x0202 .ok (toLE 8 (Chip.poisonMap (c.peek a n)) ++ plain (c.peek a n)))) ∧
     (c.Admits h 0x0203 .either false → c.memCheck h a n false true = none → c.Fits h 0 →
       exec (.memFill h a n pattern) s = s.goes ((c.memStore a (Chip.fillBytes n pattern)).reply h 0x0203 .ok [])) ∧
     (c.Admits h 0x0204 .either false → n % 64 = 0 → poly ≤ 3 → (h.pkg = true ∨ isWindow a = false) →
       c.memCheck h a n false false = none → c.digesting ((c.ownerOf a).getD 0) = false →
       let w := c.hold h 0x0204
       exec (.memDigest h a n poly) s = s.goes ((w.digestRange a n).finalReply h 0x0204 (Chip.digestReply poly (w.peek a n)))) ∧
     (c.Admits h 0x0204 .either false → n ≠ 0 → n % 64 = 0 → poly ≤ 3 → h.pkg = false → isWindow a = true → a % 8 = 0 →
       c.running h.basin = false → ∀ l, c.windowBytes h.basin a n = some l →
       (c.digesting h.basin = false → exec (.memDigest h a n poly) s = s.goes ((c.hold h 0x0204).digestWindow h a n poly)) ∧
       (c.digesting h.basin = true → exec (.memDigest h a n poly) s = s.goes (c.reply h 0x0204 .busy [])))) ∧
  (∀ (c : Chip) (x : DigestJob), c.quay.digests = [x] → (∀ r ∈ c.quay.hreads, (r.flow, r.tag) ∉ x.reads) →
     let d := ({ c with quay := { c.quay with digests := [] } } : Chip).scrambleChk (c.firstCore x.cmd.h.basin)
     let r := Chip.digestReply x.poly (d.farPeek x.cmd.h.basin x.addr x.len)
     c.settleDigests = ({ d with quay := { d.quay with cmds := d.quay.cmds.erase x.cmd } } : Chip).replyTo x.cmd r.1 r.2) ∧
  (∀ (s : State) (h : Hdr) (a n : Nat) (data : List Byte) (pattern : Word) (poly : Nat), let c := s.chip
     let all (st : Status) : Prop :=
       (data.length = n → data.length ≤ 8192 → exec (.memWrite h a data) s = s.goes (c.reply h 0x0201 st [])) ∧
       (exec (.memFill h a n pattern) s = s.goes (c.reply h 0x0203 st []))
     let digest (st : Status) : Prop := exec (.memDigest h a n poly) s = s.goes (c.reply h 0x0204 st [])
     let owners := c.ownersOf a n
     c.Admits h 0x0201 .either false → c.dev = .ready →
     ((n = 0 ∨ a % 8 ≠ 0 ∨ n % 8 ≠ 0 ∨ c.oneRegion a n = false ∨ (h.pkg = false ∧ ∃ b ∈ owners, b ≠ h.basin)) →
       all .badParam ∧ (n ≤ 8192 → exec (.memRead h a n) s = s.goes (c.reply h 0x0202 .badParam [])) ∧
         (isWindow a = false → digest .badParam)) ∧
     (8192 < n → exec (.memRead h a n) s = s.goes (c.reply h 0x0202 .badParam [])) ∧
     (n ≠ 0 → a % 8 = 0 → n % 8 = 0 → c.oneRegion a n = true → (h.pkg = true ∨ ∀ b ∈ owners, b = h.basin) →
       ((∃ b ∈ owners, c.running b = true) → all .notInState ∧ (n % 64 = 0 → poly ≤ 3 → isWindow a = false → digest .notInState)) ∧
       ((∃ b ∈ owners, c.undecided b = true ∧ c.touchesMoored b a n = true) → all .notInState)))

/-- A write of bytes, unit by unit (R198, R199, Table 06.4), `t` the correction limit of each line: units it does not touch keep everything;
a unit that takes a poisoned byte, or is written in part over contents that are poisoned or uncorrectable, is poisoned and reads zero; every
other unit it touches holds the new bytes and, beside them, its old ones as a reader sees them, free of poison and of errors; and what was
written clean reads back. -/
def Obligations.WritesByUnit : Prop :=
  ∀ (m : Mem) (t : Nat → Nat) (a : Nat) (bytes : List PByte), let n := bytes.length
    OneStore a n →
    let d := m.write t a bytes
    let spoilt (u : Nat) : Prop := (∃ i, i < n ∧ unitOf (a + i) = u ∧ bytes[i]? = some none) ∨
      (¬ (a ≤ u ∧ u + unitSize a ≤ a + n) ∧ (m.decode t u).delivers = false)
    m.SameOutside d (· ∈ unitsOf a n) ∧
    (∀ u ∈ unitsOf a n, spoilt u → d.poisoned u = true ∧ ∀ x, unitOf x = u → d.byte x = 0) ∧
    (∀ u ∈ unitsOf a n, ¬ spoilt u → d.poisoned u = false ∧ d.decode t u = .good ∧
      ∀ x, unitOf x = u → d.byte x = if a ≤ x ∧ x < a + n then ((bytes[x - a]?).join).getD 0 else m.seen t x) ∧
    ((∀ u ∈ unitsOf a n, ¬ spoilt u) → d.read t a n = bytes)

/-- How a unit decodes and reads (R195, R198, R208; Tables 06.2, 06.4): an outer code that corrects up to the limit of MEM_CTRL, delivers
nothing beyond it up to where the distance of its code ends, and tells stored poison from data, SECDED on a scratch word; a read gives each
byte as its reader sees it where its unit delivers, poisoned elsewhere; what a unit within its code delivers is what was stored; a read
changes no unit but a pinned line it corrects, and of that line nothing a reader sees (R223). -/
def Obligations.ReadsByUnit : Prop :=
  (∀ (m : Mem) (t : Nat → Nat) (a n : Nat), OneStore a n → (m.read t a n).length = n ∧
    ∀ i, i < n → (m.read t a n)[i]? =
      some (if (m.decode t (unitOf (a + i))).delivers then some (m.seen t (a + i)) else none)) ∧
  (∀ (c : Chip) (core a n : Nat), let d := c.noteRead core a n
    (∀ x, d.mem.seen c.tmax x = c.mem.seen c.tmax x) ∧ d.mem.poison = c.mem.poison ∧ d.mem.wordErr = c.mem.wordErr ∧
      (∀ x, (∀ h o, c.region (unitOf x) ≠ .pinned h o) →
        d.mem.byte x = c.mem.byte x ∧ d.mem.lineRaw (unitOf x) = c.mem.lineRaw (unitOf x)) ∧
      { d with regs := c.regs, mem := c.mem, wins := c.wins, fresh := c.fresh,
               pilot := { d.pilot with copies := c.pilot.copies } } = c) ∧
  (∀ (m : Mem) (t : Nat → Nat) (u : Nat), unitOf u = u → let n := m.lineErrors u
    (isScratch u = false → m.poisoned u = false →
      (n = 0 → m.decode t u = .good) ∧ (0 < n → n ≤ t u → m.decode t u = .corrected) ∧
      (t u < n → n ≤ 6 → m.decode t u = .bad) ∧ (t u < n → n ≤ 16 - t u → (m.decode t u).delivers = false)) ∧
    (isScratch u = false → m.poisoned u = true →
      (n = 0 → m.decode t u = .stored) ∧ (0 < n → n ≤ 6 → m.decode t u = .storedErr)) ∧
    (isScratch u = true → m.poisoned u = false →
      (m.wordErrors u = 0 → m.decode t u = .good) ∧ (m.wordErrors u = 1 → m.decode t u = .corrected) ∧
      (2 ≤ m.wordErrors u → m.decode t u = .bad)) ∧
    (isScratch u = true → m.poisoned u = true →
      (m.wordErrors u = 0 → m.decode t u = .stored) ∧ (m.wordErrors u = 1 → m.decode t u = .storedErr) ∧
      (2 ≤ m.wordErrors u → m.decode t u = .bad)) ∧
    ((isScratch u = true ∨ (m.poisoned u = false ∧ n ≤ t u)) → ∀ x, unitOf x = u → m.seen t x = m.byte x))

/-- Basins (R45): for every cut, first sett, first core, first harbour die of basin `i` with first row `r`, the numbering within it,
and in a one-basin package the basin core index is the logical core number. -/
def Obligations.BasinGeometry : Prop :=
  ∀ (c : Chip) (i : Nat), i < c.basinCount →
    let r := c.firstRow i
    r = i * c.rows ∧ c.rows * c.basinCount = 4 ∧
    c.firstSett i = 5 * r ∧ c.firstCore i = 10 * r ∧ c.firstHarbour i = 20 + 4 * r ∧
    c.relocate i 0 = some (5 * r * Chip.stackSize) ∧
    (∀ j, j < 5 * c.rows → (c.settsOf i)[j]? = some (5 * r + j) ∧ c.basinOfSett (5 * r + j) = i) ∧
    (∀ b, b < 10 * c.rows → (c.coresOf i)[b]? = some (10 * r + b) ∧ c.basinOfCore (10 * r + b) = i) ∧
    (∀ g, g < 4 * c.rows → (c.harboursOf i)[g]? = some (20 + 4 * r + g) ∧ c.basinOfHarbour (20 + 4 * r + g) = i) ∧
    (c.basinCount = 1 → c.firstCore i = 0)

/-- Relocation of a basin's addresses (R47): its DRAM to its own stacks, scratch to its own cores, pinned ways to its own harbour
dies, the host window unchanged, everything else unmapped; so no basin reaches another's memory. -/
def Obligations.RelocationKeepsBasinsApart : Prop :=
  ∀ (c : Chip) (b : Nat), b < c.basinCount →
    (∀ a, a < c.settCount * Chip.stackSize → c.relocate b a = some (a + c.firstSett b * Chip.stackSize)) ∧
    (∀ k o, k < c.coreCount → o < 0x3000000 →
      c.relocate b (0x20000000000 + k * 0x4000000 + o) = some (Chip.scratchBase (c.firstCore b + k) + o)) ∧
    (∀ g o, g < c.harbourCount → o < c.pinnedWays (c.firstHarbour b + g) * 0x800000 →
      c.relocate b (0x30000000000 + g * 0x10000000 + o) = some (Chip.pinnedBase (c.firstHarbour b + g) + o)) ∧
    (∀ a, 0x100000000000 ≤ a → a < 0x1000000000000 → c.relocate b a = some a) ∧
    (∀ a, c.settCount * Chip.stackSize ≤ a → a < 0x20000000000 → c.relocate b a = none) ∧
    (∀ a d, c.relocate b a = some d → c.region d = .window ∨ c.ownerOf d = some b)

/-! ### Programs and steps -/

/-- PROG_LOAD and PROG_BIND (R399 to R401): an admitted load of a readable image takes its slot and answers the image's hash, an
image that breaks R400 answers its status; a bind of an image that passes R401 takes effect in either mode, one that does not answers
its status, and mode 2 unbinds. What a load and a bind leave (R251, R400, R401; Tables 07.9, 11.21): the slot's image and its CRC-64; the
basin's slot, audit mode, scope and contract, the equalisers of its setts, its bundle streams written to their places; nothing of another
basin. That mode 2 on a basin with no program bound answers OK is the model's choice, log entry 18. -/
def Obligations.ProgramCommandsComplete : Prop :=
  (∀ (s : State) (h : Hdr) (slot : Nat), slot ≤ 7 → let c := s.chip
      (∀ src len, c.Admits h 0x0301 .package false → len ≠ 0 → c.sourceOk src len = true → c.slotBound slot = false →
        let w := c.hold h 0x0301
        (∀ ss, w.readImage (w.peek src len) = .ok ss →
          let d := (w.noteRead 0 src len).loadSlot slot src (w.peek src len) ss
          exec (.progLoad h slot src len) s = s.goes (d.finalReply h 0x0301 (.ok, toLE 8 (d.reg (R.seqProgHash slot)).toNat))) ∧
        (∀ st, w.readImage (w.peek src len) = .error st →
          exec (.progLoad h slot src len) s = s.goes ((w.noteRead 0 src len).finalReply h 0x0301 (st, [])))) ∧
      (c.Admits h 0x0302 .basin false → c.running h.basin = false →
        let w := c.hold h 0x0302
        (∀ mode p, mode < 2 → c.bound h.basin = false → c.prog slot = some p →
          (∀ k, w.bindCheck slot p (w.peek p.src p.len) = .ok k → exec (.progBind h slot mode) s =
            s.goes (((w.noteRead 0 p.src p.len).bindSched h.basin slot (mode == 1) (w.peek p.src p.len) k).finalReply h 0x0302 (.ok, []))) ∧
          (∀ st, w.bindCheck slot p (w.peek p.src p.len) = .error st →
            exec (.progBind h slot mode) s = s.goes ((w.noteRead 0 p.src p.len).finalReply h 0x0302 (st, [])))) ∧
        (c.undecided h.basin = false →
          exec (.progBind h slot 2) s = s.goes ((w.unbind h.basin).finalReply h 0x0302 (.ok, []))))) ∧
  ((∀ (c : Chip) (slot src : Nat) (img : List PByte) (ss : List Sched), slot < 8 → c.progs.length = 8 →
      let d := c.loadSlot slot src img ss
      d.prog slot = some { src := src, len := img.length, scheds := ss } ∧ (∀ x, x ≠ slot → d.prog x = c.prog x) ∧
        d.reg (R.seqProgHash slot) = BitVec.ofNat 64 (crc64 (plain img)) ∧ d.regField (R.seqProg slot) 0 1 = 1 ∧
        d.slotBound slot = false ∧ { d with regs := c.regs, progs := c.progs } = c ∧
        ∀ a, a ≠ R.seqProg slot → a ≠ R.seqProgHash slot → d.reg a = c.reg a) ∧
    (∀ (c : Chip) (b slot : Nat) (audit : Bool) (img : List PByte) (k : Sched), c.Shape → b < c.basinCount → slot < 8 →
      k.scope < 4 → (∀ i ∈ c.coresOf b, c.meshBroken i = false) → let d := c.bindSched b slot audit img k
      d.regField (R.seqBind b) 0 3 = slot ∧ d.bound b = true ∧ d.audited b = audit ∧ d.regField (R.seqProg slot) (4 + b) 1 = 1 ∧
        (d.basin b).scope = k.scope ∧ (d.basin b).contract = k.contract ∧
        (∀ x, x ≠ b → d.basin x = c.basin x ∧ d.reg (R.seqBind x) = c.reg (R.seqBind x)) ∧
        (∀ n ∈ c.settsOf b, d.reg (R.tidEq n) = if k.contract = 0 then 0
          else if k.contract = 1 ∧ (c.die 0).stepping = 2 then packF [(0, 2, 1), (4, 4, 3), (8, 4, 4), (12, 4, 8)]
          else packF [(0, 2, k.contract)]) ∧
        d.mem = k.streams.foldl (fun m x => match c.relocate b x.1 with
          | some a => m.write c.tmax a ((img.drop x.2.2).take (64 * x.2.1))
          | none => m) c.mem ∧
        { d with regs := c.regs, mem := c.mem, basins := c.basins, fab := { d.fab with cache := c.fab.cache } } = c))

/-- The step commands. LAUNCH_AT_TIDE (R262, R264, R365): DRAINED for a basin without an undecided step once a drain is pending; BAD_PARAM
for a tick outside 50,000 to 10,000,000,000 from now or for setts that hold no one seed and rank; NOT_IN_STATE in RUN, unbound or not
synced; else ACCEPTED_PENDING, and the launch waits. STEP_COMMIT and STEP_DISCARD as Tables 10.6 and 10.7 state them: NOT_IN_STATE without
an undecided step, after its discard or a pre-emption, BUSY while the gate is open or an evaluation pends, ACCEPTED_PENDING while a core
has not come to its gate, else evaluated at once; a discard only of a step whose gate is closed and whose cores stand at the gate. -/
def Obligations.StepCommands : Prop :=
  (∀ (s : State) (h : Hdr) (t : Nat), let c := s.chip
    let b := h.basin
    let no (st : Status) : Prop := exec (.launchAtTide h t) s = s.goes (c.reply h 0x0303 st [])
    let drained := c.regField R.seqDrain 0 1 = 1 ∧ c.undecided b = false
    let wrong := t < c.tide + 50000 ∨ c.tide + 10000000000 < t ∨ c.oneSeed b = false
    let early := c.running b = true ∨ c.bound b = false ∨ c.synced = false
    c.Admits h 0x0303 .basin false →
    (drained → no .drained) ∧ (¬ drained → wrong → no .badParam) ∧ (¬ drained → ¬ wrong → early → no .notInState) ∧
    (¬ drained → ¬ wrong → ¬ early → exec (.launchAtTide h t) s = s.goes ((c.hold h 0x0303).acceptLaunch b t))) ∧
  (∀ (s : State) (h : Hdr), let c := s.chip
    let b := h.basin
    (c.Admits h 0x0304 .basin false →
      let no (st : Status) : Prop := exec (.stepCommit h) s = s.goes (c.reply h 0x0304 st [])
      ((c.undecided b = false ∨ (c.basin b).discarding = true ∨ c.regField (R.seqStepStatus b) 11 1 = 1) → no .notInState) ∧
      (c.undecided b = true → (c.basin b).discarding = false → c.regField (R.seqStepStatus b) 11 1 ≠ 1 →
        ((c.gateOpen b = true ∨ c.gatePending b = true) → no .busy) ∧
        (c.gateOpen b = false → c.gatePending b = false →
          (c.gateReached b = false → exec (.stepCommit h) s = s.goes ((c.hold h 0x0304).setField (R.seqGate b) 1 1 1)) ∧
          (c.gateReached b = true → c.Fits h 8 →
            exec (.stepCommit h) s = s.goes ((c.evaluate b).1.reply h 0x0304 (c.evaluate b).2.1 (c.evaluate b).2.2))))) ∧
    (c.Admits h 0x0305 .basin false →
      ((c.undecided b = false ∨ (c.basin b).discarding = true ∨ c.gateOpen b = true ∨ c.gateReached b = false) →
        exec (.stepDiscard h) s = s.goes (c.reply h 0x0305 .notInState [])) ∧
      (c.undecided b = true → (c.basin b).discarding = false → c.gateOpen b = false → c.gateReached b = true → c.Fits h 0 →
        exec (.stepDiscard h) s = s.goes ((c.discard b).reply h 0x0305 .ok []))))

/-- LAUNCH, GATE_EVALUATION, SCHEDULE_COMPLETE and BASIN_PREEMPTED (R248, R263, R272, R355 to R357): an accepted launch happens at the
first edge delivered at or after its tick; a pending STEP_COMMIT evaluates once every core holds at its gate or has ended and every write
is ordered; a schedule whose cores have ended leaves RUN after its units' last cycle; a pre-empted basin once its units have stopped. -/
def Obligations.StepEventsComplete : Prop :=
  (∀ (s : State) (b : Nat), let c := s.chip
    let x := c.basin b
    (b < c.basinCount → x.running = true → x.live = false → x.preempting = false → c.clk.stopped = false →
      exec (.launch b) s = s.goes ((Chip.passEdges 1000 (c.passTo x.t) 1).launchNow b)) ∧
    (x.running = false ∨ x.live = true → exec (.launch b) s = s.goes c)) ∧
  (∀ (s : State) (b : Nat), let c := s.chip
    let x := c.basin b
    b < c.basinCount → x.running = true →
    (c.gatePending b = true → x.live = true → x.preempting = false → c.allHeld b = true → c.allOrdered b = true →
      (c.regField (R.seqStepStatus b) 11 1 ≠ 1 → exec (.gateEvaluation b) s =
        s.goes ((c.evaluate b).1.finish 0x0304 b (c.evaluate b).2.1 (c.evaluate b).2.2)) ∧
      (c.regField (R.seqStepStatus b) 11 1 = 1 → exec (.gateEvaluation b) s =
        s.goes ((c.setField (R.seqGate b) 1 1 0).finish 0x0304 b .notInState []))) ∧
    (x.live = true → x.preempting = false → (∀ i ∈ c.coresOf b, (c.core i).phase = .ended ∧ (c.core i).ebb = none) →
      (c.passLast b).allLast b = true → (c.passLast b).allOrdered b = true →
      exec (.scheduleComplete b) s = s.goes ((c.passLast b).leaveRun b 0)) ∧
    (x.preempting = true → x.live = true → (c.passLast b).allStopped b = true →
      exec (.basinPreempted b) s = s.goes ((c.passLast b).leavePreempted b)) ∧
    (x.preempting = true → x.live = false → c.allStopped b = true → exec (.basinPreempted b) s = s.goes (c.leavePreempted b)))

/-- A launch (R147, R242, R263, R265, R281, R287, R325, R358; the Launch row of Table 14.7). Accepted: the basin waits in RUN for its
tick, its step is open, its gate closed, the launch index 0 in a step's first launch and one more in each further one, its cores' fetchers
at the start of their streams; nothing else of it has begun (that RUN, the step and the fetch begin at acceptance is the model's choice,
log entry 33). In the launch edge everything the row names is clear: TID_ISSUE_k's loop stack and loose mark, TID_CYCLE_k,
TID_BASIN_TIMING_b, VEC_NF_STEP, VEC_GBOUND, VEC_SPIKE, VEC_LS_j, INT_SETT_STATUS, the valid bit of INT_NF_FIRST, late_event, and the
counts since launch: pass_seq, op_seq of MVU and vector engine, stream_seq, RNG_DRAWS, CHK scans, RED_STATUS posted and delivered, the
epochs of RED_BAR_i; vector registers read as at reset, the harbour dies of the basin hold no window line, no arrival and no collective is
left; every core is in cycle 0 before bundle 0, and then each in turn issues bundle 0. Memory, program slots, the quay, other basins and
their cores are untouched. -/
def Obligations.LaunchClearsTable147 : Prop :=
  (∀ (c : Chip) (b t : Nat), c.Shape → b < c.basinCount → (∀ i ∈ c.coresOf b, c.meshBroken i = false) →
    (c.boundStreams b).length = c.coreCount → let d := c.acceptLaunch b t
    d.running b = true ∧ (d.basin b).live = false ∧ (d.basin b).t = t ∧ (d.basin b).preempting = false ∧ d.undecided b = true ∧
      d.gateOpen b = false ∧
      (∀ i ∈ c.coresOf b, (d.core i).phase = (c.core i).phase ∧ (d.core i).queue = [] ∧ (d.core i).fetch = 0 ∧
        (c.boundStreams b)[i - c.firstCore b]? = some ((d.core i).streamAddr, (d.core i).bundles)) ∧
      (∀ n ∈ c.settsOf b, d.regField (R.rngIdent n) 8 8 =
        if c.undecided b then (c.regField (R.rngIdent (c.firstSett b)) 8 8 + 1) % 256 else 0) ∧
      (∀ i, i < 40 → i ∉ c.coresOf b → d.core i = c.core i) ∧ (∀ x, x ≠ b → d.basin x = c.basin x) ∧
      d.mem = c.mem ∧ d.progs = c.progs ∧ d.quay = c.quay ∧ d.wire = c.wire) ∧
  (∀ (c : Chip) (b : Nat), c.Shape → b < c.basinCount → let d := c.atCycle0 b
    (d.basin b).live = true ∧ (d.basin b).remotes = [] ∧ (d.basin b).arrivals = [] ∧ (d.basin b).barRelease = none ∧
      (∀ m ∈ (d.basin b).early, m ∈ (c.basin b).early ∧ m.kind ≠ 4 ∧ (CargoHdr.parse m.cargo).epoch = c.epochOf b) ∧
      d.reg (R.tidBasinTiming b) = 0 ∧ d.regField (R.seqGate b) 6 1 = 0 ∧
      (∀ i ∈ c.coresOf b, (d.core i).phase = .run ∧ (d.core i).cycle = 0 ∧ (d.core i).loops = [] ∧ (d.core i).loose = false ∧
        (d.core i).bundle = 0 ∧ (d.core i).hold = none ∧ (d.core i).ebb = none ∧ (d.core i).adj = [] ∧ (d.core i).lsTable = [] ∧
        (∀ g ∈ (d.core i).engines, g.seq = 0 ∧ g.busyTo = none ∧ g.heldTo = none ∧ g.fl = none) ∧
        (∀ n, 1 ≤ n → n ≤ 7 → d.reg (R.vecNfStep i n) = 0) ∧ d.reg (R.vecGbound i) = 0 ∧ d.reg (R.vecSpike i) = 0 ∧
        d.reg (R.rngDraws i) = 0 ∧ d.regField (R.arrPassStatus i) 0 28 = 0 ∧ d.regField (R.mvuOpStatus i) 0 24 = 0 ∧
        d.regField (R.vecOpStatus i) 0 24 = 0 ∧ d.regField (R.chkStatus i) 8 24 = 0 ∧
        ∀ r l, r < 32 → l < 512 → Sparse.get laneDefault d.vregs (vrKey i r l) = laneDefault 0) ∧
      (∀ n ∈ c.settsOf b, d.reg (R.intStatus n) = 0 ∧ d.regField (R.intNfFirst n) 0 1 = 0) ∧
      (let r := c.redAt b
       d.regField (R.redStatus r) 8 24 = 0 ∧ d.regField (R.redStatus r) 32 32 = 0 ∧
         ∀ n, 1 ≤ n → n ≤ 63 → d.regField (R.redBar r n) 56 8 = 0) ∧
      (∀ l ∈ d.fab.cache, l ∈ c.fab.cache ∧ ¬ (isWindow l.line = true ∧ l.die ∈ c.harboursOf b)) ∧
      (∀ i, i < 40 → i ∉ c.coresOf b → d.core i = c.core i) ∧ (∀ x, x ≠ b → d.basin x = c.basin x) ∧
      d.mem = c.mem ∧ d.progs = c.progs ∧ d.quay = c.quay ∧ d.wire = c.wire ∧ d.tide = c.tide ∧
      c.launchNow b = (c.coresOf b).foldl (fun c i => (c.takeEdge i).thisCycle i fun c => c.issueNow i) d)

/-- The gate conditions decide (R354 to R357): an evaluation opens the gate of a basin in RUN, in force 32 ticks later, exactly when all
four conditions hold; out of RUN it completes the step at once; else it answers INTEGRITY_HOLD, counts it, sends the pilot a copy (R370),
and leaves gate, step counter and memory alone. That the copy carries SEQ_GATE as its value is the model's choice, log entry 65. -/
def Obligations.GateOpensOnlyOnAllConditions : Prop :=
  ∀ (c : Chip) (b : Nat), c.Shape → b < c.basinCount → let r := c.evaluate b
    let d := r.1
    let conds := c.gateConds b
    d.gatePending b = false ∧ r.2.2 = toLE 4 ((conds.all id).toNat + 2 * Chip.condBits conds) ++ toLE 4 0 ∧
    (conds.all id = true → r.2.1 = .ok ∧ (c.running b = true →
      d.gateOpen b = true ∧ (d.basin b).openAt = some (c.tide + 32) ∧ d.reg (R.seqStep b) = c.reg (R.seqStep b) ∧ d.mem = c.mem)) ∧
    (conds.all id = true → c.running b = false →
      d.reg (R.seqStep b) = c.reg (R.seqStep b) + 1 ∧ d.gateOpen b = false ∧ d.undecided b = false) ∧
    (conds.all id = false → r.2.1 = .hold ∧ d.gateOpen b = c.gateOpen b ∧
      d.regField (R.seqGate b) 16 32 = satAdd 32 (c.regField (R.seqGate b) 16 32) 1 ∧
      d.regField (R.seqGate b) 2 4 = Chip.condBits conds ∧ c.OnlyRegs { d with pilot := c.pilot } (fun a => a = R.seqGate b) ∧
      { d.pilot with copies := c.pilot.copies } = c.pilot ∧
      (c.dev = .ready → d.pilot.copies = c.pilot.copies ++
        [{ code := 0x19, die := 36, block := 0x19, basin := b, value := d.reg (R.seqGate b) }]))

/-- A step decision (R281, R287, R289, R357, R359): a commit advances the step counter by one and a discard leaves it; launch index,
step status and gate clear; with a ring in the basin's DRAM the record stands whole in the ring's next slot and the ring moves on; memory
outside that slot and every other basin is untouched. -/
def Obligations.StepDecision : Prop :=
  ∀ (c : Chip) (b : Nat) (ok : Bool), c.Shape → b < c.basinCount → let d := c.decide' b ok
    let slots := c.regField (R.seqDvorRing b) 0 16
    let next := c.regField (R.seqDvorRing b) 16 16 % slots
    let base := c.regField (R.seqDvorBase b) 0 48
    let place := base + 4096 * next + c.firstSett b * Chip.stackSize
    d.reg (R.seqStep b) = (if ok then c.reg (R.seqStep b) + 1 else c.reg (R.seqStep b)) ∧
      d.reg (R.seqStepStatus b) = 0 ∧ d.gateOpen b = false ∧ d.gatePending b = false ∧
      (∀ n ∈ c.settsOf b, d.regField (R.rngIdent n) 8 8 = 0) ∧
      (∀ x, x ≠ b → d.basin x = c.basin x ∧ d.reg (R.seqStep x) = c.reg (R.seqStep x)) ∧
      d.cores = c.cores ∧ d.vregs = c.vregs ∧ d.quay = c.quay ∧ d.wire = c.wire ∧
      (slots = 0 → d.mem = c.mem) ∧
      (0 < slots → base % 4096 = 0 → c.inBasinDram base (slots * 4096) = true →
        d.regField (R.seqDvorRing b) 16 16 = (next + 1) % slots ∧
        d.regField (R.seqDvorRing b) 32 32 = satAdd 32 (c.regField (R.seqDvorRing b) 32 32) 1 ∧
        c.mem.SameOutside d.mem (fun u => place ≤ u ∧ u < place + 4096) ∧
        ((c.relocate b (c.regField (R.seqPackAddr b) 0 48)).all (fun p => !dirty (c.peek p 1024)) = true →
          leAt (plain (d.peek place 4096)) 0 4 = 0x524F5644 ∧
          leAt (plain (d.peek place 4096)) 8 8 = (c.reg (R.seqStep b)).toNat ∧
          bits (leAt (plain (d.peek place 4096)) 6 2) 0 2 = (if ok then 1 else 2) ∧
          leAt (plain (d.peek place 4096)) 0xFF8 8 = crc64 ((plain (d.peek place 4096)).take 0xFF8)))

/-- A basin leaves RUN (R248, R272, R357, R394): it is no longer in RUN, its LAUNCH_AT_TIDE and PREEMPT have their final replies and
wait no longer, other commands go on waiting, and the step commits exactly when its gate is open. A STEP_COMMIT that still waits for its
evaluation when a pre-emption or a discard ends the launch is answered too, and the counter stays (R272, R359). -/
def Obligations.LeavingRunDecides : Prop :=
  (∀ (c : Chip) (b outcome : Nat), c.Shape → b < c.basinCount → c.gatePending b = false → let d := c.leaveRun b outcome
    d.running b = false ∧ (d.basin b).live = false ∧ (d.basin b).preempting = false ∧
      (∀ p ∈ d.quay.cmds, p ∈ c.quay.cmds ∧ ¬ ((p.opcode = 0x0303 ∨ p.opcode = 0x0306) ∧ (p.h.pkg = true ∨ p.h.basin = b))) ∧
      (∀ p ∈ c.quay.cmds, ¬ (p.opcode = 0x0303 ∨ p.opcode = 0x0306) → p ∈ d.quay.cmds) ∧
      (c.gateOpen b = true → d.reg (R.seqStep b) = c.reg (R.seqStep b) + 1 ∧ d.undecided b = false ∧ d.gateOpen b = false) ∧
      (c.gateOpen b = false → d.reg (R.seqStep b) = c.reg (R.seqStep b)) ∧
      (c.gateOpen b = false → (c.basin b).discarding = false → d.mem = c.mem ∧ d.undecided b = c.undecided b) ∧
      d.quay.completed = c.quay.completed + (c.pendingFor 0x0303 b).length + (c.pendingFor 0x0306 b).length ∧
      (∀ x, x ≠ b → d.basin x = c.basin x) ∧ d.cores = c.cores) ∧
  (∀ (c : Chip) (b outcome : Nat), c.Shape → b < c.basinCount → c.gatePending b = true → c.gateOpen b = false →
    (outcome = 1 ∨ ((c.basin b).discarding = true ∧ c.undecided b = true)) → let d := c.leaveRun b outcome
    d.running b = false ∧ d.gatePending b = false ∧ d.reg (R.seqStep b) = c.reg (R.seqStep b) ∧
      (∀ p ∈ d.quay.cmds, p ∈ c.quay.cmds ∧
        ¬ ((p.opcode = 0x0303 ∨ p.opcode = 0x0304 ∨ p.opcode = 0x0306) ∧ (p.h.pkg = true ∨ p.h.basin = b))) ∧
      d.quay.completed = c.quay.completed + (c.pendingFor 0x0303 b).length + (c.pendingFor 0x0304 b).length +
        (c.pendingFor 0x0306 b).length)

/-! ### Pre-emption, fabric, integrity and drain -/

/-- PREEMPT (R272): NOT_IN_STATE out of RUN; else ACCEPTED_PENDING, and the basin stops issuing at once and for good, or, with its gate
open, only preempt_deferred is set. Memory and the other basins are untouched. -/
def Obligations.PreemptStopsIssue : Prop :=
  (∀ (s : State) (h : Hdr), let c := s.chip
    c.Admits h 0x0306 .basin false →
    (c.running h.basin = false → exec (.preempt h) s = s.goes (c.reply h 0x0306 .notInState [])) ∧
    (c.running h.basin = true → exec (.preempt h) s = s.goes ((c.hold h 0x0306).preemptBasin h.basin))) ∧
  (∀ (c : Chip) (b : Nat), c.Shape → b < c.basinCount → (∀ i ∈ c.coresOf b, c.meshBroken i = false) → let d := c.preemptBasin b
    (c.gateOpen b = true → d.regField (R.seqGate b) 7 1 = 1 ∧ c.OnlyRegs d fun a => a = R.seqGate b) ∧
    (c.gateOpen b = false → (d.basin b).preempting = true ∧ (∀ i ∈ c.coresOf b, d.mayIssue i = false) ∧
      (∀ i, i < 40 → i ∉ c.coresOf b → d.core i = c.core i) ∧ (∀ x, x ≠ b → d.basin x = c.basin x) ∧
      { d with cores := c.cores, basins := c.basins, regs := c.regs } = c ∧ ∀ a, a ≠ R.tidBarrier b → d.reg a = c.reg a) ∧
    ((c.basin b).live = true → c.gateOpen b = false → ∀ i ∈ c.coresOf b, (c.core i).ebb = none →
      (d.core i).phase ≠ .run ∧ (d.core i).hold = none))

/-- The fabric commands (R302, R317, R321, R343, R403): each that is admitted, in range, and sent while no basin is in RUN takes effect;
a change of groups, ranks or the rank map also needs every program unbound. What they leave in the registers (Tables 09.16 to 09.23): the
topology on every harbour die with slot mode off, the masked groups in every basin; the slot entries of the masked links with slot mode
on; group, L_bar and lbar_min of a barrier; a basin's rank and the rank map everywhere. No memory and no core changes. -/
def Obligations.FabricCommandsComplete : Prop :=
  (∀ (s : State) (h : Hdr), let c := s.chip
      c.anyRun = false →
      (∀ topo mask groups, c.Admits h 0x0401 .package false → Chip.topoLegal topo = true → mask < 2 ^ 16 → groups.length = 16 →
        (c.anyBound = false ∨ c.groupsChange mask groups = false) →
        exec (.fabricConfig h topo mask groups) s =
          s.goes (((c.hold h 0x0401).setFabric topo mask groups).finalReply h 0x0401 (.ok, []))) ∧
      (∀ mask entries, c.Admits h 0x0402 .package false → mask < 2 ^ 7 → entries.length = 448 → (∀ e ∈ entries, e.toNat < 8) →
        c.Fits h 0 → exec (.slotTableLoad h mask entries) s = s.goes ((c.loadSlots mask entries).reply h 0x0402 .ok [])) ∧
      (∀ id group lbar latency, c.Admits h 0x0403 .package false → 1 ≤ id → id ≤ 63 → group ≤ 15 → lbar < 2 ^ 24 →
        c.members 0 group ≠ [] →
        let m := Chip.lbarMin latency
        let l := if lbar = 0 then m else lbar
        exec (.barrierConfig h id group lbar latency) s =
          s.goes (((c.hold h 0x0403).setBarrier id group l m).finalReply h 0x0403 (.ok, toLE 4 m ++ toLE 4 l))) ∧
      (∀ rank ebbGroup entries, c.Admits h 0x0404 .basin false → c.ranksOk h.basin rank ebbGroup entries = true →
        (c.anyBound = false ∨ c.ranksChange h.basin rank entries = false) → c.Fits h 0 →
        exec (.rankAssign h rank ebbGroup entries) s =
          s.goes ((c.assignRank h.basin rank ebbGroup entries).reply h 0x0404 .ok []))) ∧
  (∀ c : Chip, c.Shape →
      (∀ topo mask groups, mask < 2 ^ 16 → let d := c.setFabric topo mask groups
        (∀ x, 20 ≤ x → x < 36 → d.regField (R.lnkTopo x) 0 28 = fget topo 0 28 ∧ d.regField (R.lnkTopo x) 28 1 = 0) ∧
        (∀ b g w, b < c.basinCount → g < 16 → w < 4 → (d.reg (R.redGroup (c.redAt b) g w)).toNat =
          if bits mask g 1 = 1 then bits (groups.getD g 0) (64 * w) 64 else (c.reg (R.redGroup (c.redAt b) g w)).toNat) ∧
        d.mem = c.mem ∧ d.cores = c.cores ∧ d.basins = c.basins) ∧
      (∀ mask entries, let d := c.loadSlots mask entries
        (∀ x l n, 20 ≤ x → x < 36 → l < 7 → n < 64 → d.regField (R.lnkTopo x) 28 1 = 1 ∧
          d.reg (R.lnkSlot x l n) = if bits mask l 1 = 1 then BitVec.ofNat 64 (leAt entries (64 * l + n) 1) else c.reg (R.lnkSlot x l n)) ∧
        c.OnlyRegs d fun a => ∃ x, 20 ≤ x ∧ x < 36 ∧ (a = R.lnkTopo x ∨ ∃ l n, l < 7 ∧ n < 64 ∧ a = R.lnkSlot x l n)) ∧
      (∀ id group l m, 1 ≤ id → id ≤ 63 → group ≤ 15 → l < 2 ^ 24 → m < 2 ^ 24 → let d := c.setBarrier id group l m
        (∀ b, b < c.basinCount → let r := R.redBar (c.redAt b) id
          d.regField r 0 4 = group ∧ d.regField r 4 1 = 1 ∧ d.regField r 8 24 = l ∧ d.regField r 32 24 = m ∧
            d.regField r 56 8 = c.regField r 56 8 ∧ d.barrierKnown b id = true) ∧
        c.OnlyRegs d fun a => ∃ b, b < c.basinCount ∧ a = R.redBar (c.redAt b) id) ∧
      (∀ b rank ebbGroup entries, b < c.basinCount → c.ranksOk b rank ebbGroup entries = true →
        (∀ i ∈ c.coresOf b, c.meshBroken i = false) → let d := c.assignRank b rank ebbGroup entries
        d.ownRank b = rank ∧ d.ebbGroup b = ebbGroup ∧ d.assigned b = true ∧
          (∀ n ∈ c.settsOf b, d.regField (R.rngIdent n) 0 8 = rank) ∧
          (∀ x r, x < c.basinCount → r < 256 → d.rankPlace x r = (entries.find? fun e => Chip.rankOf e = r).map fun e =>
            (bits e 8 4, bits e 12 4, bits e 16 4, bits e 20 2)) ∧
          { d with regs := c.regs } = c))

/-- DRAIN, DRAIN_ENTER and REPLICA_DIGEST (R361, R365 to R367): a drain is recorded and waits; in DRAIN it answers OK at once and may
add replacement; the package enters DRAIN in the first tick with no undecided step and no basin in RUN; a digest of whole pages of a
basin out of RUN is taken and answered, INTEGRITY_HOLD alone where it met poison (the model's reading of R361 and R392, log entry 19). -/
def Obligations.DrainCommandsComplete : Prop :=
  ∀ (s : State) (h : Hdr), let c := s.chip
    (∀ mode replace, mode ≤ 1 → replace ≤ 1 → c.Admits h 0x0502 .package false →
      (c.dev ≠ .drain → let w := (c.hold h 0x0502).startDrain 0xF 36 0 (replace == 1)
        exec (.drain h mode replace) s = s.goes (if mode = 1 then w.drainNow else w)) ∧
      (c.dev = .drain → c.Fits h 0 → exec (.drain h mode replace) s =
        s.goes ((if replace = 1 then c.flagReplacement else c).reply h 0x0502 .ok []))) ∧
    (c.dev = .ready → c.regField R.seqDrain 0 1 = 1 → c.anyUndecided = false → c.anyRun = false → ∃ d : Chip,
      exec .drainEnter s = s.goes d ∧ d.dev = .drain ∧ d.regField R.seqDrain 1 1 = 1 ∧ (∀ p ∈ d.quay.cmds, p.opcode ≠ 0x0502) ∧
        d.mem = c.mem ∧ d.cores = c.cores ∧ d.basins = c.basins ∧
        (36 ≤ c.regField R.seqDrain 9 6 → d.regField R.seqDrain 17 4 = 0)) ∧
    ((c.dev ≠ .ready ∨ c.regField R.seqDrain 0 1 = 0 ∨ c.anyUndecided = true ∨ c.anyRun = true) →
      exec .drainEnter s = s.goes c) ∧
    (∀ mode region base len d, mode ≤ 1 → (mode = 0 → region ≤ 63) → c.Admits h 0x0504 .basin false →
      let r := c.replicaRange h.basin mode region base len
      c.pagesAt h.basin r.1 r.2 = some d → c.running h.basin = false → c.digesting h.basin = false →
      let w := c.hold h 0x0504
      exec (.replicaDigest h mode region base len) s =
        s.goes ((w.takeReplica h.basin d r.2 (if mode = 0 then region else 0xFFFFFFFF)).finalReply h 0x0504
          (if dirty (w.peek d r.2) then (.hold, []) else (.ok, toLE 8 (Chip.replicaDigest (plain (w.peek d r.2)))))))

/-- The first trigger of a drain alone is recorded (R365): pending, code, die, basin and tick; a later one may add replacement and
changes nothing else. A hardware fault is such a trigger with replacement, and marks every undecided step it touches (R363). -/
def Obligations.FirstDrainTriggerIsKept : Prop :=
  (∀ (c : Chip) (code die basin : Nat) (replace : Bool), code < 16 → die < 64 → basin < 4 → c.tide < 2 ^ 43 →
    let d := c.startDrain code die basin replace
    c.OnlyRegs { d with pilot := c.pilot } (fun a => a = R.seqDrain) ∧ { d.pilot with copies := c.pilot.copies } = c.pilot ∧
      d.regField R.seqDrain 0 1 = 1 ∧
      d.regField R.seqDrain 3 1 = (if replace then 1 else c.regField R.seqDrain 3 1) ∧
      (c.regField R.seqDrain 0 1 = 1 → d.regField R.seqDrain 4 60 = c.regField R.seqDrain 4 60 ∧
        d.regField R.seqDrain 1 2 = c.regField R.seqDrain 1 2) ∧
      (c.reg R.seqDrain = 0 → d.regField R.seqDrain 5 4 = code ∧ d.regField R.seqDrain 9 6 = die ∧
        d.regField R.seqDrain 15 2 = basin ∧ d.regField R.seqDrain 21 43 = c.tide)) ∧
  (∀ (c : Chip) (code die k unit : Nat), code < 16 → die < 40 → let d := c.hwFault code die k unit
    d.regField R.seqDrain 0 1 = 1 ∧ d.regField R.seqDrain 3 1 = 1 ∧
      (∀ b ∈ c.faultBasins die, b < 4 → c.undecided b = true → d.regField (R.seqStepStatus b) 10 1 = 1) ∧
      (∀ n ∈ c.faultSetts die, n < 20 → d.regField (R.intStatus n) 2 1 = 1 ∧ d.regField (R.intEvents n) 0 1 = 1) ∧
      { d with regs := c.regs, fresh := c.fresh, pilot := { d.pilot with copies := c.pilot.copies } } = c)

/-! ### Pilot commands, wipes and power -/

/-- ATTEST, LIFECYCLE_SET, WIPE and POWER_POINT complete (R404, R426, R430, R432, R436, R437, R458): ATTEST answers OK with the
attestation report of 4,304 bytes; a token that authorises an action blows its fuses, wiping where the state changes, and one that does
not counts an AUTH_FAIL, each with a new nonce, and after eight of those every token does (R436; log entry 42); WIPE with its confirmation
word begins a wipe; an operating point and a cap in range take effect before the reply. Each states the next state for an admitted
command, and the status where it is turned away. The report binds the verifier's nonce, the tide count and the basins of the cut. -/
def Obligations.PilotCommandsComplete : Prop :=
  (∀ (c : Chip) (nonce : List Byte), nonce.length = 32 → let r := c.attestReport nonce
    r.length = 4304 ∧ leAt r 0 4 = 0x5441514F ∧ leAt r 0x10 8 = c.tide % 2 ^ 64 ∧ sliceB r 0x28 32 = nonce ∧ leAt r 0x4C 1 = c.basinCount ∧
      leAt r 0xD0 8 = (c.reg R.seqDrain).toNat ∧ c.identityRecord.length = 2672) ∧
  ∀ (s : State) (h : Hdr), let c := s.chip
    (∀ nonce, c.Admits h 0x0601 .package false → nonce.length = 32 → c.replyFits h.flow 4304 = true →
      (c.trngOk = true → let w := c.hold h 0x0601
        exec (.attest h nonce) s = s.goes (w.finalReply h 0x0601 (.ok, w.attestReport nonce))) ∧
      (c.trngOk = false → exec (.attest h nonce) s = s.goes (c.reply h 0x0601 .notInState []))) ∧
    (∀ t nonce, c.Admits h 0x0603 .package false → 8 ≤ c.pilot.failRun → c.Fits h 0 →
      exec (.lifecycleSet h t nonce) s = s.goes ((Chip.authFailed (if Chip.tokenOk t = true ∧
        Chip.actionAllowed c.fuses (leAt t 0 1) (leAt t 1 1) (leAt t 2 1) = true ∧ c.lifecycleReady = true
        then c.putBytes (R.pltNonce 0) 4 nonce else c)).reply h 0x0603 .authFail [])) ∧
    (∀ t nonce, c.Admits h 0x0603 .package false → Chip.tokenOk t = true →
      Chip.actionAllowed c.fuses (leAt t 0 1) (leAt t 1 1) (leAt t 2 1) = true → c.lifecycleReady = true →
      ((c.pilot.failRun < 8 ∧ c.tokenAuthentic t = true) →
        let w := (c.hold h 0x0603).putBytes (R.pltNonce 0) 4 nonce
        let d : Chip := { w with fuses := Chip.blow c.fuses t, pilot := { w.pilot with failRun := 0 } }
        (lifeState (Chip.blow c.fuses t) = lifeState c.fuses →
          exec (.lifecycleSet h t nonce) s = s.goes (d.finalReply h 0x0603 (.ok, []))) ∧
        (lifeState (Chip.blow c.fuses t) ≠ lifeState c.fuses → exec (.lifecycleSet h t nonce) s = s.goes (d.beginWipe 1))) ∧
      (¬ (c.pilot.failRun < 8 ∧ c.tokenAuthentic t = true) → c.Fits h 0 → exec (.lifecycleSet h t nonce) s =
        s.goes (((c.putBytes (R.pltNonce 0) 4 nonce).authFailed).reply h 0x0603 .authFail []))) ∧
    (c.Admits h 0x0604 .package false →
      (∀ x, x ≠ 0x45504957 → exec (.wipe h x) s = s.goes (c.reply h 0x0604 .badParam [])) ∧
      ((c.anyRun = true ∨ c.anyUndecided = true) → exec (.wipe h 0x45504957) s = s.goes (c.reply h 0x0604 .notInState [])) ∧
      (c.anyRun = false → c.anyUndecided = false → c.quay.cmds ≠ [] →
        exec (.wipe h 0x45504957) s = s.goes (c.reply h 0x0604 .busy [])) ∧
      (c.anyRun = false → c.anyUndecided = false → c.quay.cmds = [] →
        exec (.wipe h 0x45504957) s = s.goes ((c.hold h 0x0604).beginWipe 0))) ∧
    (∀ op cap, c.Admits h 0x0701 .package false →
      ((3 < op ∨ (cap ≠ 0 ∧ (cap < 1500 ∨ 4200 < cap))) → exec (.powerPoint h op cap) s = s.goes (c.reply h 0x0701 .badParam [])) ∧
      (op ≤ 3 → (cap = 0 ∨ (1500 ≤ cap ∧ cap ≤ 4200)) → c.Fits h 0 →
        exec (.powerPoint h op cap) s = s.goes ((c.setPoint op cap).reply h 0x0701 .ok [])))

/-- The life-cycle state is decoded from the fuses in the order of R434. -/
def Obligations.LifeCycleDecode : Prop :=
  ∀ f : Fuses,
    (f.retired = true → lifeState f = 5) ∧
    (f.retired = false → f.exits < f.entries → lifeState f = 4) ∧
    (f.retired = false → ¬ f.exits < f.entries → f.deployed = true → lifeState f = 3) ∧
    (f.retired = false → ¬ f.exits < f.entries → f.deployed = false → f.provisioned = true → lifeState f = 2) ∧
    (f.retired = false → ¬ f.exits < f.entries → f.deployed = false → f.provisioned = false → lifeState f = 1)

/-- The life cycle moves only as Table 12.11 says (R435, R437): an action that is allowed reaches exactly its target, blows no fuse
back, never leaves RETIRED, and kills the seed on the way there; one that keeps the state changes one key slot and no other. -/
def Obligations.LifeCycleMoves : Prop :=
  ∀ (f : Fuses) (t : List Byte), let target := leAt t 0 1
    let action := leAt t 1 1
    let slot := leAt t 2 1
    f.slots.length = 4 → f.exits ≤ f.entries → f.entries ≤ f.exits + 1 → Chip.tokenOk t = true →
    Chip.actionAllowed f target action slot = true → let g := Chip.blow f t
    lifeState f ≠ 5 ∧ lifeState g = target ∧ g.exits ≤ g.entries ∧ g.entries ≤ g.exits + 1 ∧
      (f.provisioned = true → g.provisioned = true) ∧ (f.deployed = true → g.deployed = true) ∧
      f.entries ≤ g.entries ∧ f.exits ≤ g.exits ∧ (target = 5 → g.seedKilled = true) ∧
      g.replacements = f.replacements ∧ g.svnMin = f.svnMin ∧ g.serial = f.serial ∧ g.dies = f.dies ∧
      (∀ i, i < 4 → (f.slots[i]?).any (·.programmed) = true → (g.slots[i]?).any (·.programmed) = true) ∧
      (∀ i, i < 4 → (f.slots[i]?).any (·.revoked) = true → (g.slots[i]?).any (·.revoked) = true) ∧
      (action ≠ 0 → ∀ i, i < 4 → i ≠ slot → g.slots[i]? = f.slots[i]?) ∧
      (action = 2 → ∃ i, i < 4 ∧ (g.slots[i]?).any (fun k => k.programmed && !k.revoked) = true)

/-- The end of a wipe (R367, R426 to R428, R437, R438; Table 12.7): every memory reads as after reset, or, where a die did not report,
every memory but that die's (which keeps every byte: the model's choice, log entry 38); with no configuration record in the image every
register keeps the bits that Table 12.7 keeps and has its reset value beside them (wipedReg), but those the end of the wipe itself writes:
PLT_WIPE, SEC_STATUS, SEQ_DRAIN and what the final reply counts and logs; the step counters and the seeds are zero; the package is READY
again, or in DRAIN with SEQ_DRAIN pending, drained and replacement where a replacement is owed, or stays in WIPE once RETIRED; WIPE and
LIFECYCLE_SET have their final replies. -/
def Obligations.WipeEnds : Prop :=
  ∀ (s : State) (us : Nat), let c := s.chip
    c.dev = .wipe → c.pilot.retiredWipe = false →
    (us ≤ 50000 → ∃ d : Chip, exec (.wipeComplete us) s = s.goes d ∧ d.mem = Mem.reset ∧ d.vregs = [] ∧ d.vstore = [] ∧
      d.cores = List.replicate 40 Core.reset ∧ d.progs = List.replicate 8 none ∧ d.fab.cache = [] ∧
      (∀ p ∈ d.quay.cmds, p.opcode ≠ 0x0604 ∧ p.opcode ≠ 0x0603) ∧ d.fuses = c.fuses ∧ d.tide = c.tide ∧
      d.regField R.pltWipe 32 24 = us ∧ d.regField R.pltWipe 56 1 = 0 ∧
      (c.pilot.image.config = [] → Sparse.wf regDefault c.regs = true →
        (∀ a, a ∉ [R.pltWipe, R.secStatus, R.seqDrain, R.seqCmdPtr, R.quaPkts] → (∀ n, n < 64 → a ≠ R.seqCmdLog n) →
          d.reg a = wipedReg a (c.reg a)) ∧
        (∀ b, b < 4 → d.reg (R.seqStep b) = 0 ∧ d.reg (R.seqStepStatus b) = 0) ∧
        ∀ n, n < 20 → d.reg (R.rngSeedLo n) = 0 ∧ d.reg (R.rngSeedHi n) = 0) ∧
      (lifeState c.fuses ≠ 5 → c.regField R.seqDrain 3 1 = 0 → d.dev = .ready) ∧
      (lifeState c.fuses ≠ 5 → c.regField R.seqDrain 3 1 = 1 →
        d.dev = .drain ∧ d.reg R.seqDrain = packF [(0, 1, 1), (1, 1, 1), (3, 1, 1)]) ∧
      (lifeState c.fuses = 5 → d.dev = .wipe ∧ d.pilot.retiredWipe = true)) ∧
    (50000 < us → exec (.wipeComplete us) s = s.goes c) ∧
    (∀ die, ∃ d : Chip, exec (.wipeIncomplete die us) s = s.goes d ∧
      (∀ a, onDie die a = false → d.mem.byte a = 0) ∧ (die < 20 → ∀ a, onDie die a = true → d.mem.byte a = c.mem.byte a) ∧
      (lifeState c.fuses ≠ 5 → d.dev = .drain))

/-- The power controller's level (R457): the first rule that matches decides, the level stays between 1 and 64 and never falls below 8
by rule 2 nor rises above 32 under a fast limit; an accepted cap is in force after POWER_POINT (R458), and so is another operating point of
a resting package, taken at the next group boundary (R237). The clock's
pattern (R235, R236): at E edges per frame edge k falls in tick floor(10k / E), so OP0 has one in every tick, OP1 in ticks 0 to 8, OP2 in
0, 1, 2, 3, 5, 6, 7, 8 and OP3 in 0, 1, 3, 5, 6, 8; at level n edge i of a group is delivered exactly when
floor((i + 1)n / 64) > floor(in / 64), n of every 64; and the counts the model keeps are those of the pattern. -/
def Obligations.ClockAndController : Prop :=
  ((∀ n cap power fast thermal, 1 ≤ n → n ≤ 64 → let m := (Chip.nextLevel n cap power fast thermal).1
      1 ≤ m ∧ m ≤ 64 ∧ (fast = true → m = min n 32) ∧
        (fast = false → (thermal = true ∨ cap < power) → m = max (n - 4) 8) ∧
        (fast = false → thermal = false → power ≤ cap → 100 * power < 95 * cap → m = min (n + 1) 64) ∧
        (fast = false → thermal = false → power ≤ cap → 95 * cap ≤ 100 * power → m = n)) ∧
    (∀ (c : Chip) (r : Readings), let d := c.control r
      d.wantedLevel = (Chip.nextLevel c.wantedLevel (c.regField R.pwrCap 0 16) r.power (c.regField R.pwrStatus 52 1 = 1)
        (c.thermalLimit r)).1 ∧ d.regField R.pwrStatus 0 16 = r.power % 2 ^ 16 ∧ d.level = c.level ∧ d.clk.period = some c.tide ∧
        { d with regs := c.regs, clk := c.clk, fresh := c.fresh } = c) ∧
    (∀ (c : Chip) (op cap : Nat), op = c.op → let d := c.setPoint op cap
      d.regField R.pwrCap 0 16 = (if cap = 0 then c.regField R.pwrCap 0 16 else cap % 2 ^ 16) ∧ c.OnlyRegs d fun a => a = R.pwrCap) ∧
    (∀ (c : Chip) (op cap : Nat), c.Shape → c.AtRest → c.tideRuns = true → c.clk.stopped = false → c.clk.group < 64 → c.clk.framePos < 10 →
      (∀ b, (c.basin b).openAt = none) → (∀ k ∈ c.cores, k.ahead = 0) → op < 4 → op ≠ c.op → let d := c.setPoint op cap
      d.op = op ∧ d.clk.op = none ∧ d.regField R.pwrEvents 4 1 = 1 ∧ d.tide = (c.tide + c.ticksToBoundary) % 2 ^ 64 ∧
        1 ≤ c.ticksToBoundary ∧ c.ticksToBoundary ≤ 128 ∧ d.clk.group < 64 ∧ d.mem = c.mem ∧ d.cores = c.cores)) ∧
  ((∀ op p, op < 4 → p < 10 → edgesIn (edgesPerFrame op) p 1 =
      ((List.range (edgesPerFrame op)).filter fun k => 10 * k / edgesPerFrame op = p).length) ∧
    ((List.range 10).filter (fun p => edgesIn (edgesPerFrame 1) p 1 = 1) = [0, 1, 2, 3, 4, 5, 6, 7, 8]) ∧
    ((List.range 10).filter (fun p => edgesIn (edgesPerFrame 2) p 1 = 1) = [0, 1, 2, 3, 5, 6, 7, 8]) ∧
    ((List.range 10).filter (fun p => edgesIn (edgesPerFrame 3) p 1 = 1) = [0, 1, 3, 5, 6, 8]) ∧
    (∀ e p n m, e ≤ 10 → edgesIn e p (n + m) = edgesIn e p n + edgesIn e ((p + n) % 10) m) ∧
    (∀ n g k, n ≤ 64 → deliveredIn n g k = ((List.range k).filter fun i => delivers n ((g + i) % 64)).length) ∧
    (∀ n, n ≤ 64 → ((List.range 64).filter (delivers n)).length = n) ∧
    ((List.range 64).filter (fun i => !delivers 48 i) = (List.range 16).map (4 * ·)))


/-! ### Bundles, loops, ebbs and holds -/

/-- BUNDLE (R242 to R245): a core that runs with no hold, ebb, pre-emption or due adjudication lets time pass to the edge of its next
issue, enters that cycle and issues its bundle; a core that may not issue issues nothing. A slot that reaches a unit still at work (R92,
R131, R138, R161, R213, R226) is ignored: outside audit mode nothing changes but the unit's sched_err flag and its counter. -/
def Obligations.BundleIssuesInItsCycle : Prop :=
  (∀ (s : State) (k : Nat), let c := s.chip.enterGate k
      (c.mayIssue k = true →
        let d := Chip.passEdges 1000 c (c.edgesFor k ((c.core k).waitLeft + 1) + (c.core k).ahead)
        d.mayIssue k = true → (d.core k).waitLeft = 0 →
        exec (.bundle k) s = s.goes ((d.takeEdge k).oneCycle k fun c => c.issueNow k)) ∧
      (c.mayIssue k = false → exec (.bundle k) s = s.goes c)) ∧
  (∀ (c : Chip) (k t : Nat), k < 40 → c.audited (c.basinOfCore k) = false →
    let ignored (d : Chip) (ev flag : Nat) : Prop :=
      d.regField ev flag 1 = 1 ∧
        d.regField (ev + 8 * (flag + 1)) 0 32 = satAdd 32 (c.regField (ev + 8 * (flag + 1)) 0 32) 1 ∧
        c.OnlyRegs d fun a => a = ev ∨ a = ev + 8 * (flag + 1)
    (∀ w, c.passBusy k t = true → bits w 128 1 = 1 → ignored (c.arraySlot k t w) (R.arrEvents k) 5) ∧
    (∀ i l x, (c.core k).ldvTo = some x → t ≤ x → ignored (c.mvuIssue k 1 i l t) (R.mvuEvents k) 3) ∧
    (∀ op i l x, 2 ≤ op → (c.core k).mvuLastIntake = some x → t ≤ x → ignored (c.mvuIssue k op i l t) (R.mvuEvents k) 3) ∧
    (∀ i l, t < (c.core k).vecNext → ignored (c.vecIssue k i l t) (R.vecEvents k) 3) ∧
    (∀ n e i l, c.engineBusy k e t = true → ignored (c.streamIssue k n e i l t) (R.strEvents k) 1) ∧
    (∀ i l x, (c.core k).chkBusyTo = some x → t ≤ x → ignored (c.checkIssue k i l t) (R.chkEvents k) 0))

/-- Loops (R247): from the first bundle of a body of one or more bundles with `n` iterations left, issue takes each bundle of the body
`n + 1` times in turn and then the bundle after it; an inner loop that ends with the outer is tested first; none costs a cycle.
The control slot (R245 to R248): NONE and LOOP set the next bundle and the wait, LOOP pushing its level; a fifth level or a body
that passes its enclosing one is a schedule error that pushes nothing; END ends the core, and it issues no more. -/
def Obligations.ControlSlotAndLoops : Prop :=
  ((∀ (start lenM1 n : Nat) (outer : List Loop), (∀ o ∈ outer.head?, start + lenM1 < o.start + o.lenM1) →
     ∀ j, j ≤ (n + 1) * (lenM1 + 1) →
       let visit : Nat → Nat × List Loop := fun j =>
         (List.range j).foldl (fun p _ => loopNext p.2 p.1) (start, { start := start, iterLeft := n, lenM1 := lenM1 } :: outer)
       (j < (n + 1) * (lenM1 + 1) → (visit j).1 = start + j % (lenM1 + 1)) ∧
         (j = (n + 1) * (lenM1 + 1) → (visit j).1 = start + lenM1 + 1 ∧ (visit j).2 = outer)) ∧
   (∀ (i o : Loop) (rest : List Loop) (x : Nat), x = i.start + i.lenM1 → x = o.start + o.lenM1 → o.iterLeft ≠ 0 →
     (i.iterLeft ≠ 0 → loopNext (i :: o :: rest) x = (i.start, { i with iterLeft := i.iterLeft - 1 } :: o :: rest)) ∧
     (i.iterLeft = 0 → loopNext (i :: o :: rest) x = (o.start, { o with iterLeft := o.iterLeft - 1 } :: rest)))) ∧
  (∀ (c : Chip) (k x t : Nat) (w : Bundle), c.Shape → k < 40 → let d := c.controlSlot k x t w
     let ls := (c.core k).loops
     let wait := bits w 0 16
     let lenM1 := bits w 48 16
     (bits w 16 4 = 0 → bits w 20 1 = 0 →
       (d.core k).bundle = (loopNext ls x).1 ∧ (d.core k).loops = (loopNext ls x).2 ∧ (d.core k).waitLeft = wait ∧
         { d with cores := c.cores } = c) ∧
     (bits w 16 4 = 1 → bits w 20 1 = 0 → loopFits ls x lenM1 = true →
       (d.core k).bundle = x + 1 ∧
         (d.core k).loops = { start := x + 1, iterLeft := bits w 24 24, lenM1 := lenM1 } :: ls ∧ (d.core k).waitLeft = wait) ∧
     (bits w 16 4 = 1 → loopFits ls x lenM1 = false →
       (d.core k).loops = (loopNext ls x).2 ∧ d.regField (R.tidEvents (k / 2)) 0 1 = 1) ∧
     (bits w 16 4 = 6 → bits w 20 1 = 0 → (d.core k).phase = .ended ∧ (d.core k).hold = none ∧ d.mayIssue k = false) ∧
     (∀ j, j < 40 → j ≠ k → bits w 16 4 ≤ 1 → d.core j = c.core j) ∧ (bits w 16 4 ≤ 1 → d.mem = c.mem))

/-- A cause holds its scope (R255, R256, R258 to R261): under CORE its core alone, else every core of the basin that runs or is held;
each held core has the cause pending for the edges given, TID_BASIN_TIMING is broken, memory is untouched; and when the ebb ends its
cores pass and a log entry stands in every sett that had a held core: valid, the causes, the scope, the core that raised it, the edges held
up to 24 bits, and the cycle it began in, at the entry TID_EBB_PTR showed (Table 07.17). -/
def Obligations.EbbHoldsItsScope : Prop :=
  (∀ (c : Chip) (k d cause : Nat) (left : Option Nat), c.Shape → k < 40 → 1 ≤ cause → cause ≤ 5 →
    let e := c.raise k d cause left
    let b := c.basinOfCore k
    (∀ j ∈ c.ebbScope k cause, ∃ x, (e.core j).ebb = some x ∧ bits x.causes (cause - 1) 1 = 1 ∧
      ∃ p ∈ x.pend, p.core = k ∧ p.cause = cause) ∧
    (∀ j, j < 40 → j ∉ c.ebbScope k cause → e.core j = c.core j) ∧
    (∀ j ∈ c.ebbScope k cause, (c.core j).ebb = none → ∃ x, (e.core j).ebb = some x ∧ x.start = d ∧ x.held = 0 ∧
      x.pend = [{ core := k, cause := cause, left := left }]) ∧
    e.regField (R.tidBasinTiming b) 0 1 = 1 ∧ e.regField (R.tidBasinTiming b) 3 1 = 1 ∧ e.mem = c.mem ∧ e.quay = c.quay ∧
    ((c.basin b).scope = 0 → c.ebbScope k cause = [k])) ∧
  (∀ (c : Chip) (b scope : Nat) (cores : List Nat) (e : Ebb), c.Shape → (∀ j ∈ cores, j < 40 ∧ (c.core j).ebb ≠ none) →
    let d := c.endEbb b scope cores e
    (∀ j ∈ cores, (d.core j).ebb = none) ∧ d.mem = c.mem ∧
      (∀ n, (∃ j ∈ cores, j / 2 = n) →
        d.regField (R.tidEbbPtr n) 0 32 = satAdd 32 (c.regField (R.tidEbbPtr n) 0 32) 1 ∧
        d.regField (R.tidEbbPtr n) 32 4 = (c.regField (R.tidEbbPtr n) 32 4 + 1) % 16) ∧
      (∀ n j x, cores.find? (fun j => j / 2 = n) = some j → (c.core j).ebb = some x →
        d.reg (R.tidEbbLog n (c.regField (R.tidEbbPtr n) 32 4)) =
          packF [(0, 1, 1), (1, 6, x.causes), (7, 2, scope), (9, 6, x.core), (15, 24, satAdd 24 x.held 0), (39, 25, x.start)]))

/-- The events of ebbs. FETCH_LATE, STREAM_LATE, CHK_LATE, FABRIC_LATE (R214, R215, R226, R242, R337): each, for a core that comes to the
boundary of its late obligation, with the edges it stays late, records its cause and holds the schedule's scope there; with no edges to
wait nothing is late. EBB_PASS and ADJUDICATION (R105 to R109, R257, R261): an ebb whose causes' ends are known lasts for the longest of
them, then every sett it held logs it and its cores go on; the oldest failed block of a core is adjudicated in an ebb of 1,024 edges. -/
def Obligations.EbbEventsComplete : Prop :=
  (∀ (s : State) (k n : Nat), let c := s.chip
    (0 < n → (c.core k).phase = .run → ∀ d, c.toBoundary k (c.nextIssue k) = some d →
      exec (.fetchLate k n) s = s.goes (d.raise k (c.nextIssue k) 5 (some n))) ∧
    (∀ e o r q, 0 < n → c.streamDeadline k e o r = some q → ∀ d, c.toBoundary k q = some d →
      exec (.streamLate k e o r n) s = s.goes ((d.recordLate k e o r q).raise k q 1 (some n))) ∧
    (∀ t, 0 < n → (c.core k).chkBusyTo = some t → ∀ d, c.toBoundary k (t + 1) = some d →
      exec (.chkLate k n) s = s.goes ((d.event (R.chkEvents k) 1).raise k (t + 1) 2 (some n))) ∧
    (∀ q, 0 < n → (c.basin (c.basinOfCore k)).colls.find? (fun q => q.core = k && !c.collMet (c.basinOfCore k) q &&
        c.reaches k (q.deadline + 1)) = some q → ∀ d, c.toBoundary k (q.deadline + 1) = some d →
      exec (.fabricLate k n) s = s.goes (d.raise k (q.deadline + 1) 4 (some n))) ∧
    (exec (.fetchLate k 0) s = s.goes c ∧ exec (.chkLate k 0) s = s.goes c ∧ exec (.fabricLate k 0) s = s.goes c ∧
      ∀ e o r, exec (.streamLate k e o r 0) s = s.goes c)) ∧
  (∀ (s : State) (k : Nat), let c := s.chip
    let b := c.basinOfCore k
    (∀ e, (c.core k).ebb = some e → e.known = true → c.adjDue k e.start = false →
      exec (.ebbPass k) s = s.goes ((c.passWhole (e.left + if e.left = 0 then 0 else (c.core k).ahead)).endEbb b (c.basin b).scope
        (c.ebbCores k) e)) ∧
    ((c.core k).ebb = none → exec (.ebbPass k) s = s.goes c) ∧
    (∀ a rest, (c.core k).adj = a :: rest → (c.core k).ebb = none → ∀ d, c.toBoundary k a.bound = some d →
      exec (.adjudication k) s = s.goes ((d.raise k a.bound 3 (some 1024)).setCore k fun x =>
        { x with adj := rest, adjRun := x.adjRun ++ [(a, 0)] })) ∧
    (∀ a rest e, (c.core k).adj = a :: rest → (c.core k).ebb = some e → a.bound ≤ e.start →
      exec (.adjudication k) s = s.goes ((c.raise k e.start 3 (some 1024)).setCore k fun x =>
        { x with adj := rest, adjRun := x.adjRun ++ [(a, 0)] })) ∧
    ((c.core k).adj = [] → exec (.adjudication k) s = s.goes c))

/-- What ends a hold, and what outlasts its bounds (R266 to R270, R339): a barrier passes its cores at the release tick, a TIDE_WAIT at
its own; a hold longer than TID_BARRIER_TIMEOUT or than its budget is recorded once; a collective whose time is up ends without the
contributions it waits for. Passing a barrier frees exactly the cores that hold at one; a timeout or an overrun sets its flag and its
counter once, and the hold goes on. -/
def Obligations.HoldsEnd : Prop :=
  (∀ (s : State) (b k : Nat), let c := s.chip
    (∀ t, (c.basin b).barRelease = some t → exec (.barrierRelease b) s = s.goes ((c.passTo t).passBarrier b)) ∧
    ((c.basin b).barRelease = none → exec (.barrierRelease b) s = s.goes c) ∧
    (∀ h t, (c.core k).hold = some h → h.kind = .tide t → exec (.tideWaitRelease k) s = s.goes ((c.passTo t).passTide k t)) ∧
    (∀ h, (c.core k).hold = some h → h.timedOut = false → 0 < c.regField R.tidBarrierTimeout 0 32 →
      exec (.barrierTimeout k) s =
        s.goes ((c.passTo (c.holdStart k h + 1000 * c.regField R.tidBarrierTimeout 0 32 + 1)).markTimeout k h.kind)) ∧
    (∀ h id m, (c.core k).hold = some h → h.kind = .barrier id m → h.barOver = false →
      let n := m + 1 - h.edges
      exec (.barOver k) s =
        s.goes ((c.passWhole (n + if n = 0 then 0 else (c.core k).ahead)).markOver k id h.start m h.timedOut)) ∧
    (∀ i q, c.coll b i = some q → c.collMet b q = false →
      let us := max 1 (c.regField (R.redTimeout (c.redAt b)) 0 32)
      exec (.collTimeout b i) s = s.goes (((c.passTo (q.tick + 1000 * us)).collTimedOut b i).endLate b q.core)) ∧
    (∀ i, c.coll b i = none → exec (.collTimeout b i) s = s.goes c)) ∧
  (∀ (c : Chip), c.Shape →
    (∀ b, b < c.basinCount → let d := c.passBarrier b
      (∀ i ∈ c.coresOf b, ∀ h id m, (c.core i).hold = some h → h.kind = .barrier id m → (d.core i).hold = none) ∧
      (∀ i ∈ c.coresOf b, (∀ h id m, (c.core i).hold = some h → h.kind ≠ .barrier id m) → d.core i = c.core i) ∧
      (∀ i, i < 40 → i ∉ c.coresOf b → d.core i = c.core i) ∧ (d.basin b).barRelease = none ∧
      d.regField (R.tidBarrier b) 6 1 = 0 ∧ d.mem = c.mem) ∧
    (∀ k h, k < 40 → (c.core k).hold = some h → h.timedOut = false → let d := c.markTimeout k h.kind
      (∃ x, (d.core k).hold = some x ∧ x.timedOut = true ∧ x.kind = h.kind ∧ x.edges = h.edges) ∧
        d.regField R.tidPkgEvents 2 1 = 1 ∧
        d.regField (R.tidPkgEvents + 8 * 3) 0 32 = satAdd 32 (c.regField (R.tidPkgEvents + 8 * 3) 0 32) 1 ∧
        { d.pilot with copies := c.pilot.copies } = c.pilot ∧
        c.OnlyRegs { d with cores := c.cores, pilot := c.pilot } fun a => a = R.tidPkgEvents ∨ a = R.tidPkgEvents + 8 * 3) ∧
    (∀ k h id m, k < 40 → (c.core k).hold = some h → h.kind = .barrier id m → m < h.edges → h.barOver = false →
      let d := c.markOver k id h.start m h.timedOut
      (∃ x, (d.core k).hold = some x ∧ x.barOver = true ∧ x.edges = h.edges ∧ x.timedOut = h.timedOut) ∧
        d.regField (R.tidEvents (k / 2)) 3 1 = 1 ∧ d.regField (R.tidBasinTiming (c.basinOfCore k)) 5 1 = 1 ∧
        d.regField (R.tidBasinTiming (c.basinOfCore k)) 0 1 = 1 ∧ { d with regs := c.regs, cores := c.cores, fresh := c.fresh } = c))

/-! ### Windows, references, limits and trips -/

/-- The four refresh windows (R202 to R207, R265; Tables 06.6, 06.13): a compiled window at its phase of the later running core's cycle,
an inserted one in hot class, a free-running one 3,900 edges after the last while no core of the sett runs and no launch is near, a guard
window with the first edge delivered after 7,800 ticks from the last, or 3,900 in hot class; each starts there. A window lasts 120 edges,
counts, moves the slice on modulo 4,096 and records the reading; the hot class follows 85 °C and 82 °C; of the memory its badger touches
its own stack's lines alone and their copies in the cache ways, and of other state no more than the bits that have gone wrong at rest.
When a free-running window is due (freeDue: 3,900 edges, or 3,901 for the first) and that a window starts at a phase already in progress
are the model's reading, log entry 27. -/
def Obligations.WindowsRun : Prop :=
  (∀ (s : State) (n temp : Nat) (u : List Upset) (low : Bool), let c := s.chip
    c.tideRuns = true → c.clk.stopped = false →
    (let span := if c.isHot n then 3900 else 7800
     exec (.guardWindow n temp u low) s =
       s.goes (((Chip.passEdges 1000 (c.passTo ((c.win n).lastTick + span)) 1).startWindow n temp u low).event (R.memEvents n) 4)) ∧
    (let d := c.pass (c.ticksFor (c.freeDue n - (c.win n).since))
     d.runningCores n = [] → (∀ e, d.edgesToLaunch n = some e → 120 ≤ e) → c.freeDue n ≤ (d.win n).since →
       exec (.freeRunningWindow n temp u low) s = s.goes (d.startWindow n temp u low)) ∧
    (∀ q m, c.laterCycle n = some m → let t := Chip.phaseCycle q m
      let d := c.passPhase n t
      (∃ x, d.laterCycle n = some x ∧ t ≤ x) → (c.win n).phaseAt ≤ t →
        let go (d : Chip) : Chip := (d.startWindow n temp u low).setWin n fun x => { x with phaseAt := t + 1 }
        (q = 3780 → exec (.compiledWindow n temp u low) s = s.goes (go (d.hotClass n temp))) ∧
        (q = 1830 → c.isHot n = true → exec (.insertedWindow n temp u low) s = s.goes (go d))) ∧
    (c.isHot n = false → exec (.insertedWindow n temp u low) s = s.goes c)) ∧
  (∀ (c : Chip) (n temp : Nat) (u : List Upset) (low : Bool), c.Shape → n < 20 → let d := c.startWindow n temp u low
    let st := R.memStatus n
    (d.win n).left = 120 ∧ (d.win n).since = 0 ∧ (d.win n).lastTick = c.tide ∧
      d.regField st 2 12 = (c.regField st 2 12 + 1) % 4096 ∧ d.regField st 24 8 = temp % 256 ∧
      d.regField st 32 32 = satAdd 32 (c.regField st 32 32) 1 ∧ d.regField st 0 1 = c.regField st 0 1 ∧
      (∀ x, x ≠ n → d.win x = c.win x) ∧ d.basins = c.basins ∧ d.quay = c.quay ∧ d.vregs = c.vregs ∧ d.vstore = c.vstore ∧
      { d.fab with cache := c.fab.cache } = c.fab ∧ (∀ k, { d.core k with queue := (c.core k).queue } = c.core k) ∧
      ((∀ e ∈ u, ∃ l sym mask, e = .line l sym mask) → d.cores = c.cores ∧ (c.fab.cache = [] → d.fab = c.fab) ∧ d.vsErr = c.vsErr ∧ d.vrErr = c.vrErr ∧
        ((∀ l ∈ (c.win n).repair, l < 128 * 6291456) →
          c.mem.SameOutside d.mem fun a => n * Chip.stackSize ≤ a ∧ a < (n + 1) * Chip.stackSize))) ∧
  (∀ (c : Chip) (n temp : Nat), n < 20 → let d := c.hotClass n temp
    (85 < temp → d.isHot n = true) ∧ (temp ≤ 82 → d.isHot n = false) ∧ (82 < temp → temp ≤ 85 → d.isHot n = c.isHot n))

/-- TIDE_SYNC_PULSE, REF_LOST and REF_RECOVERY (R231 to R233): an armed pulse loads the count and syncs both tide dies, any other leaves
the count and is checked once synced; a lost reference runs from holdover and clears locked and synced, its recovery sets locked again.
Each completes in every state: without a running tide, or for a die that is no tide die, with no effect. The check of a pulse once synced is
read as in log entry 28; that the pilot's copy of a lost reference carries TID_PKG_EVENTS itself, in block TID of die 38, is the model's
choice, log entry 65. -/
def Obligations.ReferencesAndSync : Prop :=
  ∀ (s : State) (die : Nat), let c := s.chip
    (c.tideRuns = false →
      exec .tideSyncPulse s = s.goes c ∧ exec (.refLost die) s = s.goes c ∧ exec (.refRecovery die) s = s.goes c) ∧
    (c.tideRuns = true →
    (exec .tideSyncPulse s = s.goes ((c.pass ((10 - c.clk.framePos) % 10)).takePulse)) ∧
    (die = 38 ∨ die = 39 → exec (.refLost die) s = s.goes (c.refLostAt die) ∧ exec (.refRecovery die) s = s.goes (c.refRecovered die)) ∧
    (die ≠ 38 → die ≠ 39 → exec (.refLost die) s = s.goes c ∧ exec (.refRecovery die) s = s.goes c) ∧
    (let d := c.takePulse
     let v := (c.reg R.tidSyncValue).toNat
     (c.regField R.tidRefStatus 3 1 = 1 → d.tide = v ∧
       ∀ x, x = 38 ∨ x = 39 → d.regField (Chip.refStatus x) 3 1 = 0 ∧ d.regField (Chip.refStatus x) 1 1 = 1) ∧
     (c.regField R.tidRefStatus 3 1 = 0 → d.tide = c.tide ∧
       (c.regField R.tidRefStatus 1 1 = 1 →
         (d.regField R.tidPkgEvents 1 1 = 1 ↔ c.regField R.tidPkgEvents 1 1 = 1 ∨
           (2 < ((c.tide : Int) - (v : Int)) % 10000000 ∧ ((c.tide : Int) - (v : Int)) % 10000000 < 9999998)))) ∧
     d.mem = c.mem) ∧
    (die = 38 ∨ die = 39 → let d := c.refLostAt die
      d.regField (Chip.refStatus die) 0 3 = 4 ∧ d.regField R.tidPkgEvents 0 1 = 1 ∧ (die = 38 → d.synced = false) ∧
      (c.dev ≠ .wipe → d.pilot = { c.pilot with copies := c.pilot.copies ++ [⟨0x18, 38, 0x20, 0, d.reg R.tidPkgEvents⟩] }) ∧
      c.OnlyRegs { d with pilot := c.pilot } (fun a => a = Chip.refStatus die ∨ a = R.tidPkgEvents ∨ a = R.tidPkgEvents + 8) ∧
      (c.refRecovered die).regField (Chip.refStatus die) 0 1 = 1 ∧ (c.refRecovered die).regField (Chip.refStatus die) 2 1 = 0))

/-- CONTROL_PERIOD, FAST_LIMIT, FAST_LIMIT_END, POWER_TRIP and ENTER_FAULTED (R363, R368, R457, R459, R464): the controller runs at each
multiple of 10,000 ticks; a fast limit holds the level at no more than 32, is counted once and ends 100 µs after its latest excess; a
reading in its trip window is recorded, stops every throttled edge and enters FAULTED, as do the faults of shared control, codes 0x0B to
0x0D. That a FAST_LIMIT row stands for an excess that has lasted 1 µs and again for its end, that a POWER_TRIP reading outside its window
changes nothing, and that code 0x0E comes by POWER_TRIP alone, are the model's reading, log entry 28; that a halted boot stays BOOT is log
entry 29's. -/
def Obligations.PowerEventsComplete : Prop :=
  ∀ (s : State), let c := s.chip
    (c.tideRuns = true →
      (∀ r, exec (.controlPeriod r) s = s.goes ((c.passTo c.periodDue).control r) ∧ c.tide ≤ c.periodDue ∧ c.periodDue % 10000 = 0 ∧
        c.periodDue ≤ c.tide + 10000) ∧
      (∃ d : Chip, exec .fastLimit s = s.goes d ∧ d.regField R.pwrStatus 52 1 = 1 ∧ d.wantedLevel = min c.wantedLevel 32 ∧
        d.regField (R.pwrEvents + 8 * 3) 0 32 = (if c.regField R.pwrStatus 52 1 = 1 then c.regField (R.pwrEvents + 8 * 3) 0 32
          else satAdd 32 (c.regField (R.pwrEvents + 8 * 3) 0 32) 1) ∧ d.clk.fastAt = some c.tide ∧
        { d with regs := c.regs, clk := c.clk, fresh := c.fresh } = c) ∧
      (∀ t, c.clk.fastAt = some t → ∃ d : Chip, exec .fastLimitEnd s = s.goes d ∧ d.regField R.pwrStatus 52 1 = 0 ∧ d.clk.fastAt = none ∧
        d.mem = (c.passTo (t + 100000)).mem ∧ d.tide = (c.passTo (t + 100000)).tide) ∧
      (c.clk.fastAt = none → exec .fastLimitEnd s = s.goes c)) ∧
    (c.dev ≠ .off →
      (∀ cause die value,
        (Chip.tripsAt cause value = true → exec (.powerTrip cause die value) s = s.goes (c.powerTripAt cause die value)) ∧
        (Chip.tripsAt cause value = false → exec (.powerTrip cause die value) s = s.goes c)) ∧
      (∀ code die,
        (c.bootHalted = false → 0xB ≤ code → code < 0xE → die < 40 → exec (.enterFaulted code die) s =
          s.goes ((c.hwFault code die 0 7).enterFaultedState (decide (0xD ≤ code)))) ∧
        (c.bootHalted = true ∨ 0xE ≤ code → exec (.enterFaulted code die) s = s.goes c))) ∧
    (c.dev = .off → (∀ cause die value, exec (.powerTrip cause die value) s = s.goes c) ∧
      ∀ code die, exec (.enterFaulted code die) s = s.goes c)

/-- FAULTED (R368, R464): every gate is shut and gate_open_at_fault says whether one was open; no core issues, no basin is in RUN, what was
in flight is gone, every pending command is logged DRAINED without a reply; memory, step counters and the Dvor rings stay as they were;
after TIDE_DISAGREE and POWER_TRIP the ports stop, and after a trip no throttled edge is delivered. A trip of a halted boot is recorded and
stops the edges, and the package stays in BOOT (the model's reading, log entry 29). -/
def Obligations.FaultedStopsEverything : Prop :=
  (∀ (c : Chip) (stop : Bool), c.Shape → let d := c.enterFaultedState stop
    d.dev = .faulted ∧ d.regField R.seqDrain 2 1 = 1 ∧
      (d.regField R.seqDrain 4 1 = 1 ↔ c.regField R.seqDrain 4 1 = 1 ∨ ∃ b, b < c.basinCount ∧ c.gateOpen b = true) ∧
      (∀ b, b < c.basinCount → d.gateOpen b = false ∧ d.gatePending b = false ∧ d.running b = false ∧
        d.reg (R.seqStep b) = c.reg (R.seqStep b) ∧ d.reg (R.seqDvorRing b) = c.reg (R.seqDvorRing b) ∧ d.basinState b = 6) ∧
      (∀ k, k < 40 → d.mayIssue k = false ∧ (d.core k).phase ≠ .run ∧ (d.core k).passes = [] ∧ (d.core k).vops = []) ∧
      d.quay.cmds = [] ∧ d.quay.completed = c.quay.completed + c.quay.cmds.length ∧ d.wire = c.wire ∧ d.mem = c.mem ∧
      d.vregs = c.vregs ∧ (stop = true → d.fab.down = true) ∧ (stop = false → d.fab.down = c.fab.down)) ∧
  (∀ (c : Chip) (cause die value : Nat), 1 ≤ cause → cause ≤ 6 → let d := c.powerTripAt cause die value
    (c.bootHalted = false → d.dev = .faulted ∧ d.fab.down = true) ∧ (c.bootHalted = true → d.dev = c.dev) ∧
      d.clk.stopped = true ∧ d.regField R.pwrEvents 5 1 = 1 ∧
      (cause = 4 ∨ cause = 5 → d.pins.thermtrip = true) ∧
      (fbit (c.reg R.pwrTripRec) 0 = false → d.regField R.pwrTripRec 0 4 = 1 + 2 * cause ∧
        d.regField R.pwrTripRec 4 6 = Chip.tripDie cause die % 64) ∧
      ∀ n, (d.passSpan n).regField (R.tidEdges 0) 0 64 = d.regField (R.tidEdges 0) 0 64)

/-! ### Power and boot -/

/-- BOARD_EN, power good and the loss of supply (R451 to R453, R464, Table 13.3): BOARD_EN starts the converters of a package that is off;
power good begins the boot; power good that does not come drops the converters and shows the fault; BOARD_EN low or a supply out of range
leaves nothing but the fuses, the pins and what lies outside. -/
def Obligations.PowerSequence : Prop :=
  ∀ (s : State), let c := s.chip
    (c.dev = .off → c.pins.boardEn = false → exec .boardEnHigh s =
      s.goes { c with pins := { c.pins with boardEn := true, converters := true } }) ∧
    (c.dev = .off → c.pins.boardEn = true → c.pins.converters = true →
      (∀ sel, ∃ d : Chip, exec (.powerGood sel) s = s.goes d ∧ d = c.powerGoodAt sel ∧ d.dev = .boot ∧ d.pilot.stage = .fuse ∧
        d.pins.pwrgd = true ∧ d.pins.addrSel = sel ∧ d.regField R.pltBootStatus 0 4 = 1 ∧ d.regField R.pltBootStatus 8 8 = 0 ∧
        d.fuses = c.fuses ∧ d.mem = Mem.reset ∧ d.tide = 0 ∧ d.quay = Quay.reset) ∧
      exec .powerGoodTimeout s = s.goes { c with pins := { c.pins with converters := false, faultHeld := true } }) ∧
    (∃ d : Chip, exec .supplyOff s = s.goes d ∧ d.dev = .off ∧ d.fuses = c.fuses ∧ d.mem = Mem.reset ∧ d.regs = [] ∧ d.quay = Quay.reset ∧
      d.host = c.host ∧ d.wire = c.wire ∧ d.pins.pwrgd = false ∧ d.pins.converters = false ∧ d.pins.boardEn = c.pins.boardEn ∧
      exec .boardEnLow s = s.goes { d with pins := { d.pins with boardEn := false } }) ∧
    (c.dev ≠ .off → exec .boardEnHigh s = s.goes c ∧ exec .powerGoodTimeout s = s.goes c ∧ ∀ sel, exec (.powerGood sel) s = s.goes c)

/-- The boot stages (R414 to R428, R438; Tables 12.1, 12.2, 12.16): each runs in its own stage, within its deadline, and halts past it;
in any other stage, after a halt, or with the package not in boot its row has no effect; a deadline that passes halts with TIMEOUT. A halt
shows its code and die; fuses that fail halt with the first failure of Table 12.2; only an image that passes VERIFY reaches CONFIG; the
wipe leaves every memory as after reset and every register outside Table 12.7's list at its reset value; READY starts the count at zero with
the clock's state shown on both tide dies, RW fields and those whose reset the spec gives as "image" or "boot" as the boot left them, every
other field at its reset value. Which of the boot's registers those are is the model's reading, log entry 29. -/
def Obligations.BootRunsInStages : Prop :=
  (∀ (s : State), let c := s.chip
    let row (st : Stage) (i : Instr) (f : Chip → Chip) : Prop :=
      (c.inStage st = true → c.pilot.sinceGood ≤ stageDeadline st * 1000000 → exec i s = s.goes (f c)) ∧
      (c.inStage st = true → stageDeadline st * 1000000 < c.pilot.sinceGood → exec i s = s.goes (c.haltBoot 0x30 0x3F)) ∧
      (c.inStage st = false → exec i s = s.goes c)
    (∀ f d, row .fuse (.fuse f d) fun c => c.bootFuse f d) ∧
    (∀ image, row .flash (.flash image) fun c => c.bootFlash image) ∧
    row .verify .verify (fun c => c.bootVerify) ∧
    (∀ bad, row .config (.config bad) fun c => c.bootConfig bad) ∧
    (∀ us bad, row .wipe (.bootWipe us bad) fun c => c.bootWipeAt us bad) ∧
    (∀ nonce locked ms, row .ready (.ready nonce locked ms) fun c => c.bootReady nonce locked ms) ∧
    (c.dev = .boot → c.pilot.halted = false → c.pilot.stage ≠ .none →
      exec .timeout s = s.goes ((c.pass (stageDeadline c.pilot.stage * 1000000 - c.pilot.sinceGood)).haltBoot 0x30 0x3F)) ∧
    (c.dev ≠ .boot ∨ c.pilot.halted = true → exec .timeout s = s.goes c)) ∧
  (∀ (c : Chip) (code die : Nat), let d := c.haltBoot code die
    d.pilot.halted = true ∧ d.regField R.pltBootStatus 4 1 = 1 ∧ d.regField R.pltBootStatus 8 8 = code % 256 ∧
      d.regField R.pltBootStatus 16 6 = die % 64 ∧ d.regField R.pltBootStatus 0 4 = c.regField R.pltBootStatus 0 4 ∧
      (∀ st, d.inStage st = false) ∧ { d with regs := c.regs, pilot := c.pilot } = c) ∧
  (∀ (c : Chip) (f : Fuses) (x : BootDraws), c.inStage .fuse = true → let d := c.bootFuse f x
    d.fuses = loadFuses c.fuses f ∧
    (∀ e, fuseFailure (loadFuses c.fuses f) x.ok = some e → d.pilot.halted = true ∧ d.regField R.pltBootStatus 8 8 = e.1 % 256) ∧
    (fuseFailure (loadFuses c.fuses f) x.ok = none → d.inStage .flash = true ∧ d.pilot.bootId = x.bootId) ∧
    (lifeState (loadFuses c.fuses f) = 5 → d.regField R.pltBootStatus 8 8 = 6)) ∧
  (∀ c : Chip, c.inStage .verify = true → let d := c.bootVerify
    (verifyFailure c.fuses c.pilot.image.bytes = none → d.inStage .config = true ∧ d.pilot.image.verified = true) ∧
    (∀ code, verifyFailure c.fuses c.pilot.image.bytes = some code → d = c.haltBoot code 0x3F)) ∧
  (∀ (c : Chip) (us : Nat), c.inStage .wipe = true → let d := c.bootWipeAt us none
    d.inStage .ready = true ∧ d.mem = Mem.reset ∧ d.vregs = [] ∧ d.vstore = [] ∧ d.vsErr = [] ∧ d.vrErr = [] ∧
      (c.pilot.image.config = [] → Sparse.wf regDefault c.regs = true →
        d.regField R.pltWipe 0 32 = satAdd 32 (c.regField R.pltWipe 0 32) 1 ∧
        ∀ a, a ≠ R.pltWipe → a ≠ R.pltBootStatus → d.reg a = wipedReg a (c.reg a))) ∧
  (∀ (c : Chip) (nonce : List Byte) (locked : Bool) (ms : Nat), ms ≤ 400 → c.inStage .ready = true →
    let d := c.bootReady nonce locked ms
    d.dev = .ready ∧ d.tide = 0 ∧ d.tideRuns = true ∧ d.mem = c.mem ∧ d.regField R.pltBootStatus 0 4 = 6 ∧
      (Sparse.wf regDefault c.regs = true → d.reg R.pltEvents = regDefault R.pltEvents ∧ d.reg R.pltWipe = c.reg R.pltWipe ∧
        (∀ n, n < 20 → d.reg (R.memEvents n) = regDefault (R.memEvents n)) ∧
        ∀ a, a ≠ R.pltBootStatus → (∀ i, i < 4 → a ≠ R.pltNonce i) → (∀ x, x = 38 ∨ x = 39 → a ≠ Chip.refStatus x) →
          d.reg a &&& ~~~ Chip.bootKeeps a = regDefault a &&& ~~~ Chip.bootKeeps a) ∧
      ∀ x, x = 38 ∨ x = 39 → d.regField (Chip.refStatus x) 0 1 = locked.toNat ∧ d.regField (Chip.refStatus x) 2 1 = (!locked).toNat)

/-! ### Reports and the quay -/

/-- Management reports and what the pilot does for itself (R370, R416, R430, R439, R443 to R445): BOOT reports of a halted boot once a
second, KEY reports every 10 s, TELEMETRY at multiples of its epoch, ERROR reports of the copies that the captures of records send it,
with the events of one code and die in 10 ms suppressed; a report is signed and leaves while the management port is up, is dropped with
report_drop while it is down, and none leaves once the TRNG has failed; a replacement position is blown once, to eight at most. That a
dropped report uses its sequence number, and that a port not enabled drops, is the model's choice, log entry 42. -/
def Obligations.ReportsLeave : Prop :=
  (∀ (s : State), let c := s.chip
    (c.reporting = true → exec .keyReport s = s.goes ((c.passSince c.pilot.keyAt 10000000000).sendKey) ∧
      (c.dev = .boot → c.pilot.halted = true → exec .bootReport s = s.goes ((c.passSince c.pilot.bootAt 1000000000).sendBoot)) ∧
      (∀ r, let period := c.regField R.pltMgmt 32 32 * 1000000
        0 < period →
        exec (.telemetry r) s = s.goes ((c.pass (Chip.dueIn c.epochTime period c.pilot.telAt)).sendTelemetry r)) ∧
      (∀ code die block basin record, c.dev ≠ .boot → c.dev ≠ .wipe → Chip.reportCode code = true →
        let r : RecCopy := ⟨code, die, block, basin, record⟩
        let d : Chip := { c with pilot := { c.pilot with copies := c.pilot.copies.erase r } }
        (r ∈ c.pilot.copies →
          (∀ x, c.rateOf code die = some x → c.tide < x.tick + 10000000 →
            exec (.errorReport code die block basin record) s = s.goes (d.suppressError x)) ∧
          (∀ x, c.rateOf code die = some x → x.tick + 10000000 ≤ c.tide →
            exec (.errorReport code die block basin record) s = s.goes (d.sendError code die block basin x.suppressed record)) ∧
          (c.rateOf code die = none →
            exec (.errorReport code die block basin record) s = s.goes (d.sendError code die block basin 0 record))) ∧
        (r ∉ c.pilot.copies → exec (.errorReport code die block basin record) s = s.goes c))) ∧
    (c.tideRuns = true → exec .trngFail s = s.goes (c.setField R.secStatus 3 1 0)) ∧
    (c.regField R.seqDrain 3 1 = 1 → c.pilot.replBlown = false → c.dev ≠ .off → c.dev ≠ .boot → exec .replacementBlow s =
      s.goes { c with fuses := { c.fuses with replacements := min 8 (c.fuses.replacements + 1) },
                      pilot := { c.pilot with replBlown := true } }) ∧
    ((c.regField R.seqDrain 3 1 = 0 ∨ c.pilot.replBlown = true) → exec .replacementBlow s = s.goes c)) ∧
  (∀ (c : Chip) (type : Nat) (body : List Byte), let d := c.sendReport type body
    (c.trngOk = false → d = c) ∧
    (c.trngOk = true → c.mgmtUp = true → ∃ m : List Byte, d.wire = c.wire ++ [.report (c.mgmtFrame m) m] ∧ m.length = 56 + body.length + 64 ∧
      leAt m 0 4 = 0x5052514F ∧ leAt m 5 1 = type % 256 ∧ leAt m 16 8 = c.pilot.seq % 2 ^ 64 ∧ d.pilot.seq = c.pilot.seq + 1) ∧
    (c.trngOk = true → c.mgmtUp = false → d.wire = c.wire ∧ d.regField R.pltEvents 2 1 = 1 ∧ d.pilot.seq = c.pilot.seq + 1) ∧
    d.mem = c.mem ∧ d.cores = c.cores ∧ d.basins = c.basins ∧ d.quay = c.quay) ∧
  (∀ (c : Chip) (a : Nat) (v : Word) (code basin : Nat), let d := c.capture a v code basin
    (fbit (c.reg a) 0 = false → c.dev ≠ .off → c.dev ≠ .boot → c.dev ≠ .wipe →
      d.pilot.copies = c.pilot.copies ++ [⟨code, raDie a, raBlock a, basin, v⟩]) ∧
    (fbit (c.reg a) 0 = true → d.pilot = c.pilot ∧ d.reg a = c.reg a) ∧ { d with regs := c.regs, pilot := c.pilot, fresh := c.fresh } = c)

/-- Packets that arrive (R375 to R384, R395): CMD and HDATA of a flow's session are taken in sequence, an ACK releases what it covers and
halves the send window on ece, an OPEN starts the flow anew or is answered again; a datagram that fails a frame, header, peer or session
check reaches no flow. A duplicate CMD or HDATA of a packet already processed is owed an ACK and is never carried out again; an
acknowledgement takes from the unacknowledged packets exactly those it covers; an OPEN binds its flow to the sender, and commands of the
flow that had not begun are gone; the package pauses its port's priority while its receive buffer fills. That a flow in LOST still takes
packets, what counts as filling the receive buffer (rxFill) and that an OPEN drops unbegun commands are the model's choices, log entry 34.
-/
def Obligations.PacketsArrive : Prop :=
  (∀ (s : State) (d : Dgram) (e : CmdEnv), let c := s.chip
     (∀ w, c.admitDgram d = (w, none) →
       exec (.cmd d e) s = s.goes w ∧ exec (.hdata d e) s = s.goes w ∧ exec (.ack d) s = s.goes w ∧ exec (.openFlow d) s = s.goes w ∧
         w.quay.flows = c.quay.flows ∧ w.mem = c.mem ∧ w.wire = c.wire) ∧
     (∀ w p q, c.admitDgram d = (w, some p) → (w.flow q.flow).state ≠ 0 → q.session = (w.flow q.flow).session →
       let x := if d.ce then w.setFlow q.flow fun f => { f with ece := true } else w
       (Chip.quayHdr d 1 = some q → exec (.cmd d e) s = s.goes (x.sequenced q d e)) ∧
       (Chip.quayHdr d 7 = some q → exec (.hdata d e) s = s.goes (x.sequenced q d e)) ∧
       (Chip.quayHdr d 3 = some q → q.length = 32 →
         let y := ((x.countRx.takeAck q.flow q.ack (leAt (qPayload d) 0 32)).beginReady q.flow).flowControl
         exec (.ack d) s = s.goes (if q.flags % 2 = 1 then y.takeEce q.flow else y))) ∧
     (∀ w p q, c.admitDgram d = (w, some p) → Chip.quayHdr d 4 = some q → q.session ≠ 0 → q.length = 0 →
       ((w.flow q.flow).state ≠ 0 ∧ (w.flow q.flow).session = q.session → exec (.openFlow d) s =
         s.goes ((if d.ce then w.setFlow q.flow fun f => { f with ece := true } else w).countRx.openOk q.flow)) ∧
       (¬ ((w.flow q.flow).state ≠ 0 ∧ (w.flow q.flow).session = q.session) →
         exec (.openFlow d) s = s.goes (w.bindFlow q.flow p q.session d))) ∧
     (∀ w p q, c.admitDgram d = (w, some p) → Chip.quayHdr d 1 = some q →
       ((w.flow q.flow).state = 0 ∨ q.session ≠ (w.flow q.flow).session) → exec (.cmd d e) s = s.goes w)) ∧
  ((∀ (c : Chip) (q : QHdr) (d : Dgram) (e : CmdEnv), q.flow < c.quay.flows.length →
     (q.type = 7 ∨ q.type = 1 ∧ cmdCrcOk (qPayload d) = true) → (c.flow q.flow).backlog = [] → (c.flow q.flow).toBegin = [] →
     let behind := psnAhead (c.flow q.flow).rxNext q.psn
     1 ≤ behind → behind ≤ 2 ^ 31 → q.psn < 2 ^ 32 → (c.flow q.flow).rxNext < 2 ^ 32 → let x := c.sequenced q d e
     x.mem = c.mem ∧ x.progs = c.progs ∧ x.cores = c.cores ∧ x.basins = c.basins ∧ x.quay.cmds = c.quay.cmds ∧
       x.quay.hreads = c.quay.hreads ∧ (x.flow q.flow).rxNext = (c.flow q.flow).rxNext ∧ (x.flow q.flow).ackDue = true ∧
       x.regs = c.regs ∧ (c.regField R.quaNet 30 1 = 0 → x.wire = c.wire)) ∧
   (∀ (c : Chip) (q : QHdr) (d : Dgram) (e : CmdEnv), q.type = 1 → cmdCrcOk (qPayload d) = false →
     c.sequenced q d e = c.event R.quaEvents 0) ∧
   (∀ (c : Chip) (f ack : Nat), f < c.quay.flows.length → (c.flow f).backlog = [] → let x := c.takeAck f ack 0
     (x.flow f).unacked = (c.flow f).unacked.filter (fun p => !ackCovers ack p.psn) ∧ (∀ g, g ≠ f → x.flow g = c.flow g) ∧
       (x.flow f).window ≤ 256 ∧ x.mem = c.mem ∧ x.wire = c.wire ∧ x.cores = c.cores) ∧
   (∀ (c : Chip) (f peer session : Nat) (d : Dgram), f < c.quay.flows.length → let x := c.bindFlow f peer session d
     (x.flow f).state = 1 ∧ (x.flow f).session = session ∧ (x.flow f).rxNext = 0 ∧ (x.flow f).peerAddr = d.srcAddr ∧
       (x.flow f).toBegin = [] ∧ (x.flow f).rxBuf = [] ∧
       (x.flow f).ece = d.ce ∧ x.mem = c.mem ∧ x.quay.cmds = c.quay.cmds ∧ x.quay.hreads = c.quay.hreads) ∧
   (∀ c : Chip, let x := c.flowControl
     let pcp := c.regField R.quaNet 27 3
     (c.regField R.quaNet 30 1 = 1 →
       (c.quay.pausing = false → 786432 < c.rxFill → x.quay.pausing = true ∧ x.wire = c.wire ++ [.pause pcp true]) ∧
       (c.quay.pausing = true → c.rxFill < 524288 → x.quay.pausing = false ∧ x.wire = c.wire ++ [.pause pcp false]) ∧
       (524288 ≤ c.rxFill → c.rxFill ≤ 786432 → x = c)) ∧
     (c.regField R.quaNet 30 1 = 0 → x = c)))

/-- The quay's timers and ports (R376, R377, R382, R383, R386, R388, R405 to R410, R442): an ACK that is due leaves; a packet without an
acknowledgement is sent again after rto, an HREAD without its answer ends poisoned after host_timeout; BEATs leave at each 1,000,000
ticks and a silence of 10 ms is recorded once; neighbours are answered for the ports' own addresses, a pause frame of the port's priority
holds what it sends, and packets held leave and commands that waited for them begin at its end; a crossing queue's reset is recorded; links
go down and come up. XQ_TIMEOUT changing nothing of its own, the recovery of XQ_RESET, that held packets leave at a pause's end and that
QUAY_LINK_DOWN clears the up bit alone are the model's choices, log entry 34. -/
def Obligations.QuayTimersAndPorts : Prop :=
  ∀ (s : State), let c := s.chip
    (∀ f, (c.flow f).state = 1 → (c.flow f).ackDue = true → exec (.sendAck f) s =
      s.goes ((c.sendBare f 3 (c.flow f).ece.toNat (Chip.rxBitmap (c.flow f))).setFlow f fun x => { x with ackDue := false, ece := false })) ∧
    (∀ f psn p, (c.flow f).unacked.find? (fun p => p.psn = psn) = some p → (c.flow f).state = 1 → exec (.rto f psn) s =
      s.goes ((c.passTo (p.tick + 1000 * max 1 (c.regField R.quaTimers 0 16))).timedOut f p)) ∧
    (∀ f tag r, c.findRead f tag = some r → exec (.hostTimeout f tag) s =
      s.goes ((c.passTo (r.tick + 1000 * max 1 (c.regField R.quaTimers 16 16))).abandonRead r)) ∧
    (c.dev ≠ .off → c.dev ≠ .boot →
      ((c.flow 0).state = 1 → exec .beat s = s.goes ((c.pass (Chip.dueIn c.tide 1000000 c.quay.beatAt)).sendBeat)) ∧
      ((c.flow 0).state ≠ 0 → c.quay.silent = false → exec .hostSilent s = s.goes ((c.pass (10000000 - c.quay.silence)).noteSilence)) ∧
      ((c.flow 0).state = 0 → exec .hostSilent s = s.goes c ∧ exec .beat s = s.goes c)) ∧
    (∀ mgmt addr, (if mgmt then c.reporting && c.mgmtUp else c.portLive) = true → addr ≠ 0 →
      (c.ownAddress mgmt false = addr → exec (.arpRequest mgmt addr) s =
        s.goes (if mgmt then c.out (.neighbor none true false addr (c.fuses.mac + 1))
          else c.quayOut (.neighbor c.vlanTag false false addr c.fuses.mac))) ∧
      (c.ownAddress mgmt true = addr → exec (.neighborSolicitation mgmt addr) s =
        s.goes (if mgmt then c.out (.neighbor none true true addr (c.fuses.mac + 1))
          else c.quayOut (.neighbor c.vlanTag false true addr c.fuses.mac))) ∧
      (c.ownAddress mgmt false ≠ addr → exec (.arpRequest mgmt addr) s = s.goes c)) ∧
    (∀ pcp, c.portLive = true → c.regField R.quaNet 30 1 = 1 →
      (pcp = c.regField R.quaNet 27 3 →
        exec (.priorityFlowControl pcp true) s = s.goes { c with quay := { c.quay with paused := true } } ∧
        exec (.priorityFlowControl pcp false) s =
          s.goes ((List.range 16).foldl Chip.beginReady
            { c with quay := { c.quay with paused := false, held := [] }, wire := c.wire ++ c.quay.held }).flowControl) ∧
      (pcp ≠ c.regField R.quaNet 27 3 → ∀ p, exec (.priorityFlowControl pcp p) s = s.goes c)) ∧
    (∀ die queue tx port, c.tideRuns = true → Chip.xqExists die queue = true → port ≤ 1 →
      let d := c.noteXq die queue tx port
      let p := 2 * (die - 20) + port
      exec (.xqReset die queue tx port) s = s.goes (if queue ≠ 2 then d else if tx = true then d.restart p
        else d.discarded p { pseq := (d.port p).expect, vc := 0, bad := none, ack := 0, cvc := 0, ccount := 0 })) ∧
    (∀ die queue, exec (.xqTimeout die queue) s = s.goes c) ∧
    (c.dev ≠ .off → exec .quayLinkDown s = s.goes (c.setField R.quaPhy 2 1 0) ∧
      exec .mgmtLinkDown s = s.goes (c.setField R.pltMgmt 2 1 0)) ∧
    (c.tideRuns = true → c.jtagDrives = false → ∀ locked, exec (.quayLinkUp locked) s =
      s.goes ((c.setField R.quaPhy 2 1 1).setField R.quaPhy 3 8
        (if 2 ≤ c.regField R.quaPhy 0 2 then locked % 16 else locked % 256))) ∧
    (c.reporting = true → c.regField R.pltMgmt 0 1 = 1 → exec .mgmtLinkUp s = s.goes (c.setField R.pltMgmt 2 1 1))
end

