-- ==== Sys2Proof/Laws/Bits.lean ====
section
/-! SUPPORT. Laws of bit fields and of the small list helpers. -/

namespace Sys2Proof.Machine

theorem bits_lt (x lo w : Nat) : bits x lo w < 2 ^ w := Nat.mod_lt _ (Nat.two_pow_pos w)

theorem fget_lt (v : Word) (lo w : Nat) : fget v lo w < 2 ^ w := bits_lt _ _ _

theorem testBit_bits (x lo w i : Nat) : (bits x lo w).testBit i = (decide (i < w) && x.testBit (lo + i)) := by
  simp [bits, Nat.testBit_mod_two_pow]

theorem testBit_fget (v : Word) (lo w i : Nat) : (fget v lo w).testBit i = (decide (i < w) && v.getLsbD (lo + i)) := by
  simp [fget, testBit_bits, BitVec.getLsbD]

theorem getLsbD_fmask (lo w i : Nat) (h : i < 64) : (fmask lo w).getLsbD i = (decide (lo ≤ i) && decide (i < lo + w)) := by
  rw [fmask, BitVec.getLsbD_ofNat, Nat.testBit_shiftLeft, Nat.testBit_two_pow_sub_one]
  by_cases h1 : lo ≤ i
  · have : (i - lo < w) ↔ (i < lo + w) := by omega
    simp [h, h1, this]
  · simp [h1]

/-- A field write, bit by bit: inside the field the new value, outside it the old register. -/
theorem getLsbD_fset (v : Word) (lo w x i : Nat) (h : i < 64) :
    (fset v lo w x).getLsbD i = if lo ≤ i ∧ i < lo + w then x.testBit (i - lo) else v.getLsbD i := by
  rw [fset, BitVec.getLsbD_or, BitVec.getLsbD_and, BitVec.getLsbD_not, getLsbD_fmask _ _ _ h, BitVec.getLsbD_ofNat,
    Nat.testBit_shiftLeft, Nat.testBit_mod_two_pow]
  by_cases h1 : lo ≤ i
  · have e : (i - lo < w) ↔ (i < lo + w) := by omega
    by_cases h2 : i < lo + w
    · simp only [h, h1, h2, e]; simp
    · simp only [h, h1, h2, e]; simp
  · simp only [h, h1]; simp

/-- A field reads as it was written, reduced to its width. -/
theorem fget_fset_same (v : Word) (lo w x : Nat) (h : lo + w ≤ 64) : fget (fset v lo w x) lo w = x % 2 ^ w := by
  apply Nat.eq_of_testBit_eq
  intro i
  rw [testBit_fget, Nat.testBit_mod_two_pow]
  by_cases hi : i < w
  · rw [getLsbD_fset _ _ _ _ _ (by omega)]
    simp [hi]
  · simp [hi]

/-- A field write leaves every other field alone. -/
theorem fget_fset_ne (v : Word) (lo w x lo' w' : Nat) (h : lo' + w' ≤ 64) (hd : lo' + w' ≤ lo ∨ lo + w ≤ lo') :
    fget (fset v lo w x) lo' w' = fget v lo' w' := by
  apply Nat.eq_of_testBit_eq
  intro i
  rw [testBit_fget, testBit_fget]
  by_cases hi : i < w'
  · rw [getLsbD_fset _ _ _ _ _ (by omega)]
    have : ¬ (lo ≤ lo' + i ∧ lo' + i < lo + w) := by omega
    simp [this]
  · simp [hi]

theorem fget_one_eq (v : Word) (i : Nat) : fget v i 1 = (v.getLsbD i).toNat := by
  apply Nat.eq_of_testBit_eq
  intro j
  rw [testBit_fget]
  cases j with
  | zero => cases v.getLsbD i <;> simp
  | succ j => cases v.getLsbD i <;> simp [Nat.testBit_succ]

theorem fbit_eq (v : Word) (i : Nat) : fbit v i = v.getLsbD i := by
  rw [fbit, fget_one_eq]; cases v.getLsbD i <;> rfl

theorem satAdd_le (w x k : Nat) : satAdd w x k ≤ 2 ^ w - 1 := Nat.min_le_right _ _

theorem modifyAt_eq {α : Type} (f : α → α) : ∀ (l : List α) (i : Nat), modifyAt l i f = l.modify i f
  | [], _ => by simp [modifyAt]
  | _ :: _, 0 => rfl
  | _ :: t, i + 1 => by simp [modifyAt, modifyAt_eq f t i]

@[simp] theorem length_modifyAt {α : Type} (l : List α) (i : Nat) (f : α → α) : (modifyAt l i f).length = l.length := by
  rw [modifyAt_eq, List.length_modify]

/-- The element replaced. -/
theorem getD_modifyAt_self {α : Type} (l : List α) (i : Nat) (f : α → α) (d : α) (h : i < l.length) :
    (modifyAt l i f).getD i d = f (l.getD i d) := by
  simp [modifyAt_eq, List.getD_eq_getElem?_getD, h]

/-- Every other element is as it was. -/
theorem getD_modifyAt_ne {α : Type} (l : List α) (i j : Nat) (f : α → α) (d : α) (h : j ≠ i) :
    (modifyAt l i f).getD j d = l.getD j d := by
  simp [modifyAt_eq, List.getD_eq_getElem?_getD, h.symm]

@[simp] theorem length_tabulate {α : Type} (n : Nat) (f : Nat → α) : (tabulate n f).length = n := by simp [tabulate]

theorem mem_tabulate {α : Type} (n : Nat) (f : Nat → α) (x : α) : x ∈ tabulate n f ↔ ∃ i, i < n ∧ f i = x := by simp [tabulate]

@[simp] theorem length_toLE (n x : Nat) : (toLE n x).length = n := by
  fun_induction toLE n x <;> simp_all

/-- A number survives its bytes. -/
theorem fromLE_toLE (n x : Nat) : fromLE (toLE n x) = x % 2 ^ (8 * n) := by
  induction n generalizing x with
  | zero => simp [toLE, fromLE, Nat.mod_one]
  | succ n ih =>
    rw [toLE, fromLE, ih, BitVec.toNat_ofNat, Nat.shiftRight_eq_div_pow]
    have : 2 ^ (8 * (n + 1)) = 2 ^ 8 * 2 ^ (8 * n) := by rw [← Nat.pow_add]; congr 1; omega
    rw [this, Nat.mod_mul]
    all_goals rfl

end Sys2Proof.Machine
end

