-- ==== Sys2Proof/Laws/Sparse.lean ====
section
/-! SUPPORT. Laws of sparse data: a read after a write, and that a write keeps the canonical form. -/

namespace Sys2Proof.Machine.Sparse

variable {α : Type} (d : Nat → α)

/-! ### What is read -/

/-- A read once the entries of a key have gone. -/
theorem get_erase (m : Sparse α) (k j : Nat) : get d (erase m k) j = if j = k then d k else get d m j := by
  unfold erase
  induction m <;> grind [get]

/-- A read once a fresh key has come in. -/
theorem get_insert (m : Sparse α) (k j : Nat) (v : α) (h : ∀ e ∈ m, e.1 ≠ k) :
    get d (insert k v m) j = if j = k then v else get d m j := by
  fun_induction insert k v m <;> simp_all [get] <;> grind

theorem erase_ne (m : Sparse α) (k : Nat) : ∀ e ∈ erase m k, e.1 ≠ k := by
  intro e he; simpa [erase] using (List.mem_filter.1 he).2

/-- A read after a write: the value written at its key, what stood there at every other key. -/
theorem get_set [DecidableEq α] (m : Sparse α) (k j : Nat) (v : α) : get d (set d m k v) j = if j = k then v else get d m j := by
  unfold set
  split
  · rename_i hv; rw [get_erase, hv]
  · rw [get_insert _ _ _ _ _ (erase_ne m k), get_erase]; grind

@[simp] theorem get_set_self [DecidableEq α] (m : Sparse α) (k : Nat) (v : α) : get d (set d m k v) k = v := by
  rw [get_set, if_pos rfl]
theorem get_set_ne [DecidableEq α] (m : Sparse α) (k j : Nat) (v : α) (h : j ≠ k) : get d (set d m k v) j = get d m j := by
  rw [get_set, if_neg h]

/-! ### The canonical form -/

theorem mem_insert (m : Sparse α) (k : Nat) (v : α) (e : Nat × α) : e ∈ insert k v m ↔ e = (k, v) ∨ e ∈ m := by
  fun_induction insert k v m <;> simp_all [or_left_comm]

/-- Keys that rise from each entry to the next rise throughout. -/
theorem sorted_iff (m : Sparse α) : sorted m = true ↔ m.Pairwise fun a b => a.1 < b.1 := by
  fun_induction sorted m <;> simp_all
  grind

theorem sorted_erase (m : Sparse α) (k : Nat) (h : sorted m = true) : sorted (erase m k) = true :=
  (sorted_iff _).2 (((sorted_iff _).1 h).filter _)

theorem sorted_insert (m : Sparse α) (k : Nat) (v : α) (hk : ∀ e ∈ m, e.1 ≠ k) (h : sorted m = true) :
    sorted (insert k v m) = true := by
  rw [sorted_iff] at h ⊢
  fun_induction insert k v m <;> simp_all [mem_insert] <;> grind

theorem wf_iff [DecidableEq α] (m : Sparse α) : wf d m = true ↔ sorted m = true ∧ ∀ e ∈ m, e.2 ≠ d e.1 := by simp [wf]

/-- Every write keeps the canonical form. -/
theorem wf_set [DecidableEq α] (m : Sparse α) (k : Nat) (v : α) (h : wf d m = true) : wf d (set d m k v) = true := by
  rw [wf_iff] at h
  have rest : ∀ e ∈ erase m k, e.2 ≠ d e.1 := fun e he => h.2 e (List.mem_filter.1 he |>.1)
  rw [set, wf_iff]
  split
  · exact ⟨sorted_erase m k h.1, rest⟩
  · exact ⟨sorted_insert _ k v (erase_ne m k) (sorted_erase m k h.1), by simp_all [mem_insert]⟩

end Sys2Proof.Machine.Sparse
end

