-- ==== Sys2Proof/Laws/State.lean ====
section
/-! SUPPORT. One lemma for each field of the chip under each of its updates, so that no proof unfolds a record update. -/

namespace Sys2Proof.Machine

@[simp] theorem upd_eq (s : State) (f : Chip → Chip) : s.upd f = .next { s with chip := f s.chip } := rfl

namespace Chip

@[simp] theorem put_dev (c : Chip) (a : Nat) (v : Word) : (c.put a v).dev = c.dev := rfl
@[simp] theorem put_tide (c : Chip) (a : Nat) (v : Word) : (c.put a v).tide = c.tide := rfl
theorem put_regs (c : Chip) (a : Nat) (v : Word) : (c.put a v).regs = regPut c.regs a v := rfl
@[simp] theorem put_mem (c : Chip) (a : Nat) (v : Word) : (c.put a v).mem = c.mem := rfl
@[simp] theorem put_vregs (c : Chip) (a : Nat) (v : Word) : (c.put a v).vregs = c.vregs := rfl
@[simp] theorem put_vstore (c : Chip) (a : Nat) (v : Word) : (c.put a v).vstore = c.vstore := rfl
@[simp] theorem put_vpoison (c : Chip) (a : Nat) (v : Word) : (c.put a v).vpoison = c.vpoison := rfl
@[simp] theorem put_vsErr (c : Chip) (a : Nat) (v : Word) : (c.put a v).vsErr = c.vsErr := rfl
@[simp] theorem put_vrErr (c : Chip) (a : Nat) (v : Word) : (c.put a v).vrErr = c.vrErr := rfl
@[simp] theorem put_host (c : Chip) (a : Nat) (v : Word) : (c.put a v).host = c.host := rfl
@[simp] theorem put_hostBad (c : Chip) (a : Nat) (v : Word) : (c.put a v).hostBad = c.hostBad := rfl
@[simp] theorem put_cores (c : Chip) (a : Nat) (v : Word) : (c.put a v).cores = c.cores := rfl
@[simp] theorem put_basins (c : Chip) (a : Nat) (v : Word) : (c.put a v).basins = c.basins := rfl
@[simp] theorem put_progs (c : Chip) (a : Nat) (v : Word) : (c.put a v).progs = c.progs := rfl
@[simp] theorem put_clk (c : Chip) (a : Nat) (v : Word) : (c.put a v).clk = c.clk := rfl
@[simp] theorem put_wins (c : Chip) (a : Nat) (v : Word) : (c.put a v).wins = c.wins := rfl
@[simp] theorem put_fab (c : Chip) (a : Nat) (v : Word) : (c.put a v).fab = c.fab := rfl
@[simp] theorem put_quay (c : Chip) (a : Nat) (v : Word) : (c.put a v).quay = c.quay := rfl
@[simp] theorem put_pilot (c : Chip) (a : Nat) (v : Word) : (c.put a v).pilot = c.pilot := rfl
@[simp] theorem put_fuses (c : Chip) (a : Nat) (v : Word) : (c.put a v).fuses = c.fuses := rfl
@[simp] theorem put_pins (c : Chip) (a : Nat) (v : Word) : (c.put a v).pins = c.pins := rfl
@[simp] theorem put_defects (c : Chip) (a : Nat) (v : Word) : (c.put a v).defects = c.defects := rfl
@[simp] theorem put_free (c : Chip) (a : Nat) (v : Word) : (c.put a v).free = c.free := rfl
@[simp] theorem put_wire (c : Chip) (a : Nat) (v : Word) : (c.put a v).wire = c.wire := rfl
@[simp] theorem put_fresh (c : Chip) (a : Nat) (v : Word) : (c.put a v).fresh = c.fresh := rfl

@[simp] theorem setField_dev (c : Chip) (a lo w x : Nat) : (c.setField a lo w x).dev = c.dev := rfl
@[simp] theorem setField_tide (c : Chip) (a lo w x : Nat) : (c.setField a lo w x).tide = c.tide := rfl
theorem setField_regs (c : Chip) (a lo w x : Nat) : (c.setField a lo w x).regs = regSetF c.regs a lo w x := rfl
@[simp] theorem setField_mem (c : Chip) (a lo w x : Nat) : (c.setField a lo w x).mem = c.mem := rfl
@[simp] theorem setField_vregs (c : Chip) (a lo w x : Nat) : (c.setField a lo w x).vregs = c.vregs := rfl
@[simp] theorem setField_vstore (c : Chip) (a lo w x : Nat) : (c.setField a lo w x).vstore = c.vstore := rfl
@[simp] theorem setField_vpoison (c : Chip) (a lo w x : Nat) : (c.setField a lo w x).vpoison = c.vpoison := rfl
@[simp] theorem setField_vsErr (c : Chip) (a lo w x : Nat) : (c.setField a lo w x).vsErr = c.vsErr := rfl
@[simp] theorem setField_vrErr (c : Chip) (a lo w x : Nat) : (c.setField a lo w x).vrErr = c.vrErr := rfl
@[simp] theorem setField_host (c : Chip) (a lo w x : Nat) : (c.setField a lo w x).host = c.host := rfl
@[simp] theorem setField_hostBad (c : Chip) (a lo w x : Nat) : (c.setField a lo w x).hostBad = c.hostBad := rfl
@[simp] theorem setField_cores (c : Chip) (a lo w x : Nat) : (c.setField a lo w x).cores = c.cores := rfl
@[simp] theorem setField_basins (c : Chip) (a lo w x : Nat) : (c.setField a lo w x).basins = c.basins := rfl
@[simp] theorem setField_progs (c : Chip) (a lo w x : Nat) : (c.setField a lo w x).progs = c.progs := rfl
@[simp] theorem setField_clk (c : Chip) (a lo w x : Nat) : (c.setField a lo w x).clk = c.clk := rfl
@[simp] theorem setField_wins (c : Chip) (a lo w x : Nat) : (c.setField a lo w x).wins = c.wins := rfl
@[simp] theorem setField_fab (c : Chip) (a lo w x : Nat) : (c.setField a lo w x).fab = c.fab := rfl
@[simp] theorem setField_quay (c : Chip) (a lo w x : Nat) : (c.setField a lo w x).quay = c.quay := rfl
@[simp] theorem setField_pilot (c : Chip) (a lo w x : Nat) : (c.setField a lo w x).pilot = c.pilot := rfl
@[simp] theorem setField_fuses (c : Chip) (a lo w x : Nat) : (c.setField a lo w x).fuses = c.fuses := rfl
@[simp] theorem setField_pins (c : Chip) (a lo w x : Nat) : (c.setField a lo w x).pins = c.pins := rfl
@[simp] theorem setField_defects (c : Chip) (a lo w x : Nat) : (c.setField a lo w x).defects = c.defects := rfl
@[simp] theorem setField_free (c : Chip) (a lo w x : Nat) : (c.setField a lo w x).free = c.free := rfl
@[simp] theorem setField_wire (c : Chip) (a lo w x : Nat) : (c.setField a lo w x).wire = c.wire := rfl
@[simp] theorem setField_fresh (c : Chip) (a lo w x : Nat) : (c.setField a lo w x).fresh = c.fresh := rfl

@[simp] theorem addField_dev (c : Chip) (a lo w k : Nat) : (c.addField a lo w k).dev = c.dev := rfl
@[simp] theorem addField_tide (c : Chip) (a lo w k : Nat) : (c.addField a lo w k).tide = c.tide := rfl
theorem addField_regs (c : Chip) (a lo w k : Nat) : (c.addField a lo w k).regs = regAddF c.regs a lo w k := rfl
@[simp] theorem addField_mem (c : Chip) (a lo w k : Nat) : (c.addField a lo w k).mem = c.mem := rfl
@[simp] theorem addField_vregs (c : Chip) (a lo w k : Nat) : (c.addField a lo w k).vregs = c.vregs := rfl
@[simp] theorem addField_vstore (c : Chip) (a lo w k : Nat) : (c.addField a lo w k).vstore = c.vstore := rfl
@[simp] theorem addField_vpoison (c : Chip) (a lo w k : Nat) : (c.addField a lo w k).vpoison = c.vpoison := rfl
@[simp] theorem addField_vsErr (c : Chip) (a lo w k : Nat) : (c.addField a lo w k).vsErr = c.vsErr := rfl
@[simp] theorem addField_vrErr (c : Chip) (a lo w k : Nat) : (c.addField a lo w k).vrErr = c.vrErr := rfl
@[simp] theorem addField_host (c : Chip) (a lo w k : Nat) : (c.addField a lo w k).host = c.host := rfl
@[simp] theorem addField_hostBad (c : Chip) (a lo w k : Nat) : (c.addField a lo w k).hostBad = c.hostBad := rfl
@[simp] theorem addField_cores (c : Chip) (a lo w k : Nat) : (c.addField a lo w k).cores = c.cores := rfl
@[simp] theorem addField_basins (c : Chip) (a lo w k : Nat) : (c.addField a lo w k).basins = c.basins := rfl
@[simp] theorem addField_progs (c : Chip) (a lo w k : Nat) : (c.addField a lo w k).progs = c.progs := rfl
@[simp] theorem addField_clk (c : Chip) (a lo w k : Nat) : (c.addField a lo w k).clk = c.clk := rfl
@[simp] theorem addField_wins (c : Chip) (a lo w k : Nat) : (c.addField a lo w k).wins = c.wins := rfl
@[simp] theorem addField_fab (c : Chip) (a lo w k : Nat) : (c.addField a lo w k).fab = c.fab := rfl
@[simp] theorem addField_quay (c : Chip) (a lo w k : Nat) : (c.addField a lo w k).quay = c.quay := rfl
@[simp] theorem addField_pilot (c : Chip) (a lo w k : Nat) : (c.addField a lo w k).pilot = c.pilot := rfl
@[simp] theorem addField_fuses (c : Chip) (a lo w k : Nat) : (c.addField a lo w k).fuses = c.fuses := rfl
@[simp] theorem addField_pins (c : Chip) (a lo w k : Nat) : (c.addField a lo w k).pins = c.pins := rfl
@[simp] theorem addField_defects (c : Chip) (a lo w k : Nat) : (c.addField a lo w k).defects = c.defects := rfl
@[simp] theorem addField_free (c : Chip) (a lo w k : Nat) : (c.addField a lo w k).free = c.free := rfl
@[simp] theorem addField_wire (c : Chip) (a lo w k : Nat) : (c.addField a lo w k).wire = c.wire := rfl
@[simp] theorem addField_fresh (c : Chip) (a lo w k : Nat) : (c.addField a lo w k).fresh = c.fresh := rfl

@[simp] theorem event_dev (c : Chip) (a f : Nat) : (c.event a f).dev = c.dev := rfl
@[simp] theorem event_tide (c : Chip) (a f : Nat) : (c.event a f).tide = c.tide := rfl
theorem event_regs (c : Chip) (a f : Nat) : (c.event a f).regs = regEvents c.regs a f 1 := rfl
@[simp] theorem event_mem (c : Chip) (a f : Nat) : (c.event a f).mem = c.mem := rfl
@[simp] theorem event_vregs (c : Chip) (a f : Nat) : (c.event a f).vregs = c.vregs := rfl
@[simp] theorem event_vstore (c : Chip) (a f : Nat) : (c.event a f).vstore = c.vstore := rfl
@[simp] theorem event_vpoison (c : Chip) (a f : Nat) : (c.event a f).vpoison = c.vpoison := rfl
@[simp] theorem event_vsErr (c : Chip) (a f : Nat) : (c.event a f).vsErr = c.vsErr := rfl
@[simp] theorem event_vrErr (c : Chip) (a f : Nat) : (c.event a f).vrErr = c.vrErr := rfl
@[simp] theorem event_host (c : Chip) (a f : Nat) : (c.event a f).host = c.host := rfl
@[simp] theorem event_hostBad (c : Chip) (a f : Nat) : (c.event a f).hostBad = c.hostBad := rfl
@[simp] theorem event_cores (c : Chip) (a f : Nat) : (c.event a f).cores = c.cores := rfl
@[simp] theorem event_basins (c : Chip) (a f : Nat) : (c.event a f).basins = c.basins := rfl
@[simp] theorem event_progs (c : Chip) (a f : Nat) : (c.event a f).progs = c.progs := rfl
@[simp] theorem event_clk (c : Chip) (a f : Nat) : (c.event a f).clk = c.clk := rfl
@[simp] theorem event_wins (c : Chip) (a f : Nat) : (c.event a f).wins = c.wins := rfl
@[simp] theorem event_fab (c : Chip) (a f : Nat) : (c.event a f).fab = c.fab := rfl
@[simp] theorem event_quay (c : Chip) (a f : Nat) : (c.event a f).quay = c.quay := rfl
@[simp] theorem event_pilot (c : Chip) (a f : Nat) : (c.event a f).pilot = c.pilot := rfl
@[simp] theorem event_fuses (c : Chip) (a f : Nat) : (c.event a f).fuses = c.fuses := rfl
@[simp] theorem event_pins (c : Chip) (a f : Nat) : (c.event a f).pins = c.pins := rfl
@[simp] theorem event_defects (c : Chip) (a f : Nat) : (c.event a f).defects = c.defects := rfl
@[simp] theorem event_free (c : Chip) (a f : Nat) : (c.event a f).free = c.free := rfl
@[simp] theorem event_wire (c : Chip) (a f : Nat) : (c.event a f).wire = c.wire := rfl
theorem event_fresh (c : Chip) (a f : Nat) : (c.event a f).fresh = c.cycleNow.set a f := rfl

@[simp] theorem events_dev (c : Chip) (a f n : Nat) : (c.events a f n).dev = c.dev := rfl
@[simp] theorem events_tide (c : Chip) (a f n : Nat) : (c.events a f n).tide = c.tide := rfl
theorem events_regs (c : Chip) (a f n : Nat) : (c.events a f n).regs = regEvents c.regs a f n := rfl
@[simp] theorem events_mem (c : Chip) (a f n : Nat) : (c.events a f n).mem = c.mem := rfl
@[simp] theorem events_vregs (c : Chip) (a f n : Nat) : (c.events a f n).vregs = c.vregs := rfl
@[simp] theorem events_vstore (c : Chip) (a f n : Nat) : (c.events a f n).vstore = c.vstore := rfl
@[simp] theorem events_vpoison (c : Chip) (a f n : Nat) : (c.events a f n).vpoison = c.vpoison := rfl
@[simp] theorem events_vsErr (c : Chip) (a f n : Nat) : (c.events a f n).vsErr = c.vsErr := rfl
@[simp] theorem events_vrErr (c : Chip) (a f n : Nat) : (c.events a f n).vrErr = c.vrErr := rfl
@[simp] theorem events_host (c : Chip) (a f n : Nat) : (c.events a f n).host = c.host := rfl
@[simp] theorem events_hostBad (c : Chip) (a f n : Nat) : (c.events a f n).hostBad = c.hostBad := rfl
@[simp] theorem events_cores (c : Chip) (a f n : Nat) : (c.events a f n).cores = c.cores := rfl
@[simp] theorem events_basins (c : Chip) (a f n : Nat) : (c.events a f n).basins = c.basins := rfl
@[simp] theorem events_progs (c : Chip) (a f n : Nat) : (c.events a f n).progs = c.progs := rfl
@[simp] theorem events_clk (c : Chip) (a f n : Nat) : (c.events a f n).clk = c.clk := rfl
@[simp] theorem events_wins (c : Chip) (a f n : Nat) : (c.events a f n).wins = c.wins := rfl
@[simp] theorem events_fab (c : Chip) (a f n : Nat) : (c.events a f n).fab = c.fab := rfl
@[simp] theorem events_quay (c : Chip) (a f n : Nat) : (c.events a f n).quay = c.quay := rfl
@[simp] theorem events_pilot (c : Chip) (a f n : Nat) : (c.events a f n).pilot = c.pilot := rfl
@[simp] theorem events_fuses (c : Chip) (a f n : Nat) : (c.events a f n).fuses = c.fuses := rfl
@[simp] theorem events_pins (c : Chip) (a f n : Nat) : (c.events a f n).pins = c.pins := rfl
@[simp] theorem events_defects (c : Chip) (a f n : Nat) : (c.events a f n).defects = c.defects := rfl
@[simp] theorem events_free (c : Chip) (a f n : Nat) : (c.events a f n).free = c.free := rfl
@[simp] theorem events_wire (c : Chip) (a f n : Nat) : (c.events a f n).wire = c.wire := rfl
theorem events_fresh (c : Chip) (a f n : Nat) : (c.events a f n).fresh = if n = 0 then c.fresh else c.cycleNow.set a f := rfl

@[simp] theorem latch_dev (c : Chip) (a : Nat) (v : Word) : (c.latch a v).dev = c.dev := rfl
@[simp] theorem latch_tide (c : Chip) (a : Nat) (v : Word) : (c.latch a v).tide = c.tide := rfl
theorem latch_regs (c : Chip) (a : Nat) (v : Word) : (c.latch a v).regs = regLatch c.regs a v := rfl
@[simp] theorem latch_mem (c : Chip) (a : Nat) (v : Word) : (c.latch a v).mem = c.mem := rfl
@[simp] theorem latch_vregs (c : Chip) (a : Nat) (v : Word) : (c.latch a v).vregs = c.vregs := rfl
@[simp] theorem latch_vstore (c : Chip) (a : Nat) (v : Word) : (c.latch a v).vstore = c.vstore := rfl
@[simp] theorem latch_vpoison (c : Chip) (a : Nat) (v : Word) : (c.latch a v).vpoison = c.vpoison := rfl
@[simp] theorem latch_vsErr (c : Chip) (a : Nat) (v : Word) : (c.latch a v).vsErr = c.vsErr := rfl
@[simp] theorem latch_vrErr (c : Chip) (a : Nat) (v : Word) : (c.latch a v).vrErr = c.vrErr := rfl
@[simp] theorem latch_host (c : Chip) (a : Nat) (v : Word) : (c.latch a v).host = c.host := rfl
@[simp] theorem latch_hostBad (c : Chip) (a : Nat) (v : Word) : (c.latch a v).hostBad = c.hostBad := rfl
@[simp] theorem latch_cores (c : Chip) (a : Nat) (v : Word) : (c.latch a v).cores = c.cores := rfl
@[simp] theorem latch_basins (c : Chip) (a : Nat) (v : Word) : (c.latch a v).basins = c.basins := rfl
@[simp] theorem latch_progs (c : Chip) (a : Nat) (v : Word) : (c.latch a v).progs = c.progs := rfl
@[simp] theorem latch_clk (c : Chip) (a : Nat) (v : Word) : (c.latch a v).clk = c.clk := rfl
@[simp] theorem latch_wins (c : Chip) (a : Nat) (v : Word) : (c.latch a v).wins = c.wins := rfl
@[simp] theorem latch_fab (c : Chip) (a : Nat) (v : Word) : (c.latch a v).fab = c.fab := rfl
@[simp] theorem latch_quay (c : Chip) (a : Nat) (v : Word) : (c.latch a v).quay = c.quay := rfl
@[simp] theorem latch_pilot (c : Chip) (a : Nat) (v : Word) : (c.latch a v).pilot = c.pilot := rfl
@[simp] theorem latch_fuses (c : Chip) (a : Nat) (v : Word) : (c.latch a v).fuses = c.fuses := rfl
@[simp] theorem latch_pins (c : Chip) (a : Nat) (v : Word) : (c.latch a v).pins = c.pins := rfl
@[simp] theorem latch_defects (c : Chip) (a : Nat) (v : Word) : (c.latch a v).defects = c.defects := rfl
@[simp] theorem latch_free (c : Chip) (a : Nat) (v : Word) : (c.latch a v).free = c.free := rfl
@[simp] theorem latch_wire (c : Chip) (a : Nat) (v : Word) : (c.latch a v).wire = c.wire := rfl
theorem latch_fresh (c : Chip) (a : Nat) (v : Word) : (c.latch a v).fresh = c.cycleNow.capture a v (fbit (c.reg a) 0) := rfl

@[simp] theorem poke_dev (c : Chip) (a : Nat) (l : List PByte) : (c.poke a l).dev = c.dev := by unfold poke refreshCopies; split <;> rfl
@[simp] theorem poke_tide (c : Chip) (a : Nat) (l : List PByte) : (c.poke a l).tide = c.tide := by unfold poke refreshCopies; split <;> rfl
@[simp] theorem poke_regs (c : Chip) (a : Nat) (l : List PByte) : (c.poke a l).regs = c.regs := by unfold poke refreshCopies; split <;> rfl
theorem poke_mem (c : Chip) (a : Nat) (l : List PByte) : (c.poke a l).mem = c.mem.write c.tmax a l := by unfold poke refreshCopies; split <;> rfl
@[simp] theorem poke_vregs (c : Chip) (a : Nat) (l : List PByte) : (c.poke a l).vregs = c.vregs := by unfold poke refreshCopies; split <;> rfl
@[simp] theorem poke_vstore (c : Chip) (a : Nat) (l : List PByte) : (c.poke a l).vstore = c.vstore := by unfold poke refreshCopies; split <;> rfl
@[simp] theorem poke_vpoison (c : Chip) (a : Nat) (l : List PByte) : (c.poke a l).vpoison = c.vpoison := by unfold poke refreshCopies; split <;> rfl
@[simp] theorem poke_vsErr (c : Chip) (a : Nat) (l : List PByte) : (c.poke a l).vsErr = c.vsErr := by unfold poke refreshCopies; split <;> rfl
@[simp] theorem poke_vrErr (c : Chip) (a : Nat) (l : List PByte) : (c.poke a l).vrErr = c.vrErr := by unfold poke refreshCopies; split <;> rfl
@[simp] theorem poke_host (c : Chip) (a : Nat) (l : List PByte) : (c.poke a l).host = c.host := by unfold poke refreshCopies; split <;> rfl
@[simp] theorem poke_hostBad (c : Chip) (a : Nat) (l : List PByte) : (c.poke a l).hostBad = c.hostBad := by unfold poke refreshCopies; split <;> rfl
@[simp] theorem poke_cores (c : Chip) (a : Nat) (l : List PByte) : (c.poke a l).cores = c.cores := by unfold poke refreshCopies; split <;> rfl
@[simp] theorem poke_basins (c : Chip) (a : Nat) (l : List PByte) : (c.poke a l).basins = c.basins := by unfold poke refreshCopies; split <;> rfl
@[simp] theorem poke_progs (c : Chip) (a : Nat) (l : List PByte) : (c.poke a l).progs = c.progs := by unfold poke refreshCopies; split <;> rfl
@[simp] theorem poke_clk (c : Chip) (a : Nat) (l : List PByte) : (c.poke a l).clk = c.clk := by unfold poke refreshCopies; split <;> rfl
@[simp] theorem poke_wins (c : Chip) (a : Nat) (l : List PByte) : (c.poke a l).wins = c.wins := by unfold poke refreshCopies; split <;> rfl
@[simp] theorem poke_fab_ports (c : Chip) (a : Nat) (l : List PByte) : (c.poke a l).fab.ports = c.fab.ports := by unfold poke refreshCopies; split <;> rfl
@[simp] theorem poke_fab_rr (c : Chip) (a : Nat) (l : List PByte) : (c.poke a l).fab.rr = c.fab.rr := by unfold poke refreshCopies; split <;> rfl
@[simp] theorem poke_fab_copies (c : Chip) (a : Nat) (l : List PByte) : (c.poke a l).fab.copies = c.fab.copies := by unfold poke refreshCopies; split <;> rfl
@[simp] theorem poke_fab_prefetch (c : Chip) (a : Nat) (l : List PByte) : (c.poke a l).fab.prefetch = c.fab.prefetch := by unfold poke refreshCopies; split <;> rfl
@[simp] theorem poke_fab_down (c : Chip) (a : Nat) (l : List PByte) : (c.poke a l).fab.down = c.fab.down := by unfold poke refreshCopies; split <;> rfl
@[simp] theorem poke_quay (c : Chip) (a : Nat) (l : List PByte) : (c.poke a l).quay = c.quay := by unfold poke refreshCopies; split <;> rfl
@[simp] theorem poke_pilot (c : Chip) (a : Nat) (l : List PByte) : (c.poke a l).pilot = c.pilot := by unfold poke refreshCopies; split <;> rfl
@[simp] theorem poke_fuses (c : Chip) (a : Nat) (l : List PByte) : (c.poke a l).fuses = c.fuses := by unfold poke refreshCopies; split <;> rfl
@[simp] theorem poke_pins (c : Chip) (a : Nat) (l : List PByte) : (c.poke a l).pins = c.pins := by unfold poke refreshCopies; split <;> rfl
@[simp] theorem poke_defects (c : Chip) (a : Nat) (l : List PByte) : (c.poke a l).defects = c.defects := by unfold poke refreshCopies; split <;> rfl
@[simp] theorem poke_free (c : Chip) (a : Nat) (l : List PByte) : (c.poke a l).free = c.free := by unfold poke refreshCopies; split <;> rfl
@[simp] theorem poke_wire (c : Chip) (a : Nat) (l : List PByte) : (c.poke a l).wire = c.wire := by unfold poke refreshCopies; split <;> rfl
@[simp] theorem poke_fresh (c : Chip) (a : Nat) (l : List PByte) : (c.poke a l).fresh = c.fresh := by unfold poke refreshCopies; split <;> rfl

@[simp] theorem setCore_dev (c : Chip) (i : Nat) (f : Core → Core) : (c.setCore i f).dev = c.dev := rfl
@[simp] theorem setCore_tide (c : Chip) (i : Nat) (f : Core → Core) : (c.setCore i f).tide = c.tide := rfl
@[simp] theorem setCore_regs (c : Chip) (i : Nat) (f : Core → Core) : (c.setCore i f).regs = c.regs := rfl
@[simp] theorem setCore_mem (c : Chip) (i : Nat) (f : Core → Core) : (c.setCore i f).mem = c.mem := rfl
@[simp] theorem setCore_vregs (c : Chip) (i : Nat) (f : Core → Core) : (c.setCore i f).vregs = c.vregs := rfl
@[simp] theorem setCore_vstore (c : Chip) (i : Nat) (f : Core → Core) : (c.setCore i f).vstore = c.vstore := rfl
@[simp] theorem setCore_vpoison (c : Chip) (i : Nat) (f : Core → Core) : (c.setCore i f).vpoison = c.vpoison := rfl
@[simp] theorem setCore_vsErr (c : Chip) (i : Nat) (f : Core → Core) : (c.setCore i f).vsErr = c.vsErr := rfl
@[simp] theorem setCore_vrErr (c : Chip) (i : Nat) (f : Core → Core) : (c.setCore i f).vrErr = c.vrErr := rfl
@[simp] theorem setCore_host (c : Chip) (i : Nat) (f : Core → Core) : (c.setCore i f).host = c.host := rfl
@[simp] theorem setCore_hostBad (c : Chip) (i : Nat) (f : Core → Core) : (c.setCore i f).hostBad = c.hostBad := rfl
theorem setCore_cores (c : Chip) (i : Nat) (f : Core → Core) : (c.setCore i f).cores = modifyAt c.cores i f := rfl
@[simp] theorem setCore_basins (c : Chip) (i : Nat) (f : Core → Core) : (c.setCore i f).basins = c.basins := rfl
@[simp] theorem setCore_progs (c : Chip) (i : Nat) (f : Core → Core) : (c.setCore i f).progs = c.progs := rfl
@[simp] theorem setCore_clk (c : Chip) (i : Nat) (f : Core → Core) : (c.setCore i f).clk = c.clk := rfl
@[simp] theorem setCore_wins (c : Chip) (i : Nat) (f : Core → Core) : (c.setCore i f).wins = c.wins := rfl
@[simp] theorem setCore_fab (c : Chip) (i : Nat) (f : Core → Core) : (c.setCore i f).fab = c.fab := rfl
@[simp] theorem setCore_quay (c : Chip) (i : Nat) (f : Core → Core) : (c.setCore i f).quay = c.quay := rfl
@[simp] theorem setCore_pilot (c : Chip) (i : Nat) (f : Core → Core) : (c.setCore i f).pilot = c.pilot := rfl
@[simp] theorem setCore_fuses (c : Chip) (i : Nat) (f : Core → Core) : (c.setCore i f).fuses = c.fuses := rfl
@[simp] theorem setCore_pins (c : Chip) (i : Nat) (f : Core → Core) : (c.setCore i f).pins = c.pins := rfl
@[simp] theorem setCore_defects (c : Chip) (i : Nat) (f : Core → Core) : (c.setCore i f).defects = c.defects := rfl
@[simp] theorem setCore_free (c : Chip) (i : Nat) (f : Core → Core) : (c.setCore i f).free = c.free := rfl
@[simp] theorem setCore_wire (c : Chip) (i : Nat) (f : Core → Core) : (c.setCore i f).wire = c.wire := rfl
@[simp] theorem setCore_fresh (c : Chip) (i : Nat) (f : Core → Core) : (c.setCore i f).fresh = c.fresh := rfl

@[simp] theorem setBasin_dev (c : Chip) (b : Nat) (f : Basin → Basin) : (c.setBasin b f).dev = c.dev := rfl
@[simp] theorem setBasin_tide (c : Chip) (b : Nat) (f : Basin → Basin) : (c.setBasin b f).tide = c.tide := rfl
@[simp] theorem setBasin_regs (c : Chip) (b : Nat) (f : Basin → Basin) : (c.setBasin b f).regs = c.regs := rfl
@[simp] theorem setBasin_mem (c : Chip) (b : Nat) (f : Basin → Basin) : (c.setBasin b f).mem = c.mem := rfl
@[simp] theorem setBasin_vregs (c : Chip) (b : Nat) (f : Basin → Basin) : (c.setBasin b f).vregs = c.vregs := rfl
@[simp] theorem setBasin_vstore (c : Chip) (b : Nat) (f : Basin → Basin) : (c.setBasin b f).vstore = c.vstore := rfl
@[simp] theorem setBasin_vpoison (c : Chip) (b : Nat) (f : Basin → Basin) : (c.setBasin b f).vpoison = c.vpoison := rfl
@[simp] theorem setBasin_vsErr (c : Chip) (b : Nat) (f : Basin → Basin) : (c.setBasin b f).vsErr = c.vsErr := rfl
@[simp] theorem setBasin_vrErr (c : Chip) (b : Nat) (f : Basin → Basin) : (c.setBasin b f).vrErr = c.vrErr := rfl
@[simp] theorem setBasin_host (c : Chip) (b : Nat) (f : Basin → Basin) : (c.setBasin b f).host = c.host := rfl
@[simp] theorem setBasin_hostBad (c : Chip) (b : Nat) (f : Basin → Basin) : (c.setBasin b f).hostBad = c.hostBad := rfl
@[simp] theorem setBasin_cores (c : Chip) (b : Nat) (f : Basin → Basin) : (c.setBasin b f).cores = c.cores := rfl
theorem setBasin_basins (c : Chip) (b : Nat) (f : Basin → Basin) : (c.setBasin b f).basins = modifyAt c.basins b f := rfl
@[simp] theorem setBasin_progs (c : Chip) (b : Nat) (f : Basin → Basin) : (c.setBasin b f).progs = c.progs := rfl
@[simp] theorem setBasin_clk (c : Chip) (b : Nat) (f : Basin → Basin) : (c.setBasin b f).clk = c.clk := rfl
@[simp] theorem setBasin_wins (c : Chip) (b : Nat) (f : Basin → Basin) : (c.setBasin b f).wins = c.wins := rfl
@[simp] theorem setBasin_fab (c : Chip) (b : Nat) (f : Basin → Basin) : (c.setBasin b f).fab = c.fab := rfl
@[simp] theorem setBasin_quay (c : Chip) (b : Nat) (f : Basin → Basin) : (c.setBasin b f).quay = c.quay := rfl
@[simp] theorem setBasin_pilot (c : Chip) (b : Nat) (f : Basin → Basin) : (c.setBasin b f).pilot = c.pilot := rfl
@[simp] theorem setBasin_fuses (c : Chip) (b : Nat) (f : Basin → Basin) : (c.setBasin b f).fuses = c.fuses := rfl
@[simp] theorem setBasin_pins (c : Chip) (b : Nat) (f : Basin → Basin) : (c.setBasin b f).pins = c.pins := rfl
@[simp] theorem setBasin_defects (c : Chip) (b : Nat) (f : Basin → Basin) : (c.setBasin b f).defects = c.defects := rfl
@[simp] theorem setBasin_free (c : Chip) (b : Nat) (f : Basin → Basin) : (c.setBasin b f).free = c.free := rfl
@[simp] theorem setBasin_wire (c : Chip) (b : Nat) (f : Basin → Basin) : (c.setBasin b f).wire = c.wire := rfl
@[simp] theorem setBasin_fresh (c : Chip) (b : Nat) (f : Basin → Basin) : (c.setBasin b f).fresh = c.fresh := rfl

@[simp] theorem setAcc_dev (c : Chip) (b : Nat) (f : StepAcc → StepAcc) : (c.setAcc b f).dev = c.dev := rfl
@[simp] theorem setAcc_tide (c : Chip) (b : Nat) (f : StepAcc → StepAcc) : (c.setAcc b f).tide = c.tide := rfl
@[simp] theorem setAcc_regs (c : Chip) (b : Nat) (f : StepAcc → StepAcc) : (c.setAcc b f).regs = c.regs := rfl
@[simp] theorem setAcc_mem (c : Chip) (b : Nat) (f : StepAcc → StepAcc) : (c.setAcc b f).mem = c.mem := rfl
@[simp] theorem setAcc_vregs (c : Chip) (b : Nat) (f : StepAcc → StepAcc) : (c.setAcc b f).vregs = c.vregs := rfl
@[simp] theorem setAcc_vstore (c : Chip) (b : Nat) (f : StepAcc → StepAcc) : (c.setAcc b f).vstore = c.vstore := rfl
@[simp] theorem setAcc_vpoison (c : Chip) (b : Nat) (f : StepAcc → StepAcc) : (c.setAcc b f).vpoison = c.vpoison := rfl
@[simp] theorem setAcc_vsErr (c : Chip) (b : Nat) (f : StepAcc → StepAcc) : (c.setAcc b f).vsErr = c.vsErr := rfl
@[simp] theorem setAcc_vrErr (c : Chip) (b : Nat) (f : StepAcc → StepAcc) : (c.setAcc b f).vrErr = c.vrErr := rfl
@[simp] theorem setAcc_host (c : Chip) (b : Nat) (f : StepAcc → StepAcc) : (c.setAcc b f).host = c.host := rfl
@[simp] theorem setAcc_hostBad (c : Chip) (b : Nat) (f : StepAcc → StepAcc) : (c.setAcc b f).hostBad = c.hostBad := rfl
@[simp] theorem setAcc_cores (c : Chip) (b : Nat) (f : StepAcc → StepAcc) : (c.setAcc b f).cores = c.cores := rfl
theorem setAcc_basins (c : Chip) (b : Nat) (f : StepAcc → StepAcc) : (c.setAcc b f).basins = modifyAt c.basins b fun x => { x with acc := f x.acc } := rfl
@[simp] theorem setAcc_progs (c : Chip) (b : Nat) (f : StepAcc → StepAcc) : (c.setAcc b f).progs = c.progs := rfl
@[simp] theorem setAcc_clk (c : Chip) (b : Nat) (f : StepAcc → StepAcc) : (c.setAcc b f).clk = c.clk := rfl
@[simp] theorem setAcc_wins (c : Chip) (b : Nat) (f : StepAcc → StepAcc) : (c.setAcc b f).wins = c.wins := rfl
@[simp] theorem setAcc_fab (c : Chip) (b : Nat) (f : StepAcc → StepAcc) : (c.setAcc b f).fab = c.fab := rfl
@[simp] theorem setAcc_quay (c : Chip) (b : Nat) (f : StepAcc → StepAcc) : (c.setAcc b f).quay = c.quay := rfl
@[simp] theorem setAcc_pilot (c : Chip) (b : Nat) (f : StepAcc → StepAcc) : (c.setAcc b f).pilot = c.pilot := rfl
@[simp] theorem setAcc_fuses (c : Chip) (b : Nat) (f : StepAcc → StepAcc) : (c.setAcc b f).fuses = c.fuses := rfl
@[simp] theorem setAcc_pins (c : Chip) (b : Nat) (f : StepAcc → StepAcc) : (c.setAcc b f).pins = c.pins := rfl
@[simp] theorem setAcc_defects (c : Chip) (b : Nat) (f : StepAcc → StepAcc) : (c.setAcc b f).defects = c.defects := rfl
@[simp] theorem setAcc_free (c : Chip) (b : Nat) (f : StepAcc → StepAcc) : (c.setAcc b f).free = c.free := rfl
@[simp] theorem setAcc_wire (c : Chip) (b : Nat) (f : StepAcc → StepAcc) : (c.setAcc b f).wire = c.wire := rfl
@[simp] theorem setAcc_fresh (c : Chip) (b : Nat) (f : StepAcc → StepAcc) : (c.setAcc b f).fresh = c.fresh := rfl

@[simp] theorem setWin_dev (c : Chip) (s : Nat) (f : Win → Win) : (c.setWin s f).dev = c.dev := rfl
@[simp] theorem setWin_tide (c : Chip) (s : Nat) (f : Win → Win) : (c.setWin s f).tide = c.tide := rfl
@[simp] theorem setWin_regs (c : Chip) (s : Nat) (f : Win → Win) : (c.setWin s f).regs = c.regs := rfl
@[simp] theorem setWin_mem (c : Chip) (s : Nat) (f : Win → Win) : (c.setWin s f).mem = c.mem := rfl
@[simp] theorem setWin_vregs (c : Chip) (s : Nat) (f : Win → Win) : (c.setWin s f).vregs = c.vregs := rfl
@[simp] theorem setWin_vstore (c : Chip) (s : Nat) (f : Win → Win) : (c.setWin s f).vstore = c.vstore := rfl
@[simp] theorem setWin_vpoison (c : Chip) (s : Nat) (f : Win → Win) : (c.setWin s f).vpoison = c.vpoison := rfl
@[simp] theorem setWin_vsErr (c : Chip) (s : Nat) (f : Win → Win) : (c.setWin s f).vsErr = c.vsErr := rfl
@[simp] theorem setWin_vrErr (c : Chip) (s : Nat) (f : Win → Win) : (c.setWin s f).vrErr = c.vrErr := rfl
@[simp] theorem setWin_host (c : Chip) (s : Nat) (f : Win → Win) : (c.setWin s f).host = c.host := rfl
@[simp] theorem setWin_hostBad (c : Chip) (s : Nat) (f : Win → Win) : (c.setWin s f).hostBad = c.hostBad := rfl
@[simp] theorem setWin_cores (c : Chip) (s : Nat) (f : Win → Win) : (c.setWin s f).cores = c.cores := rfl
@[simp] theorem setWin_basins (c : Chip) (s : Nat) (f : Win → Win) : (c.setWin s f).basins = c.basins := rfl
@[simp] theorem setWin_progs (c : Chip) (s : Nat) (f : Win → Win) : (c.setWin s f).progs = c.progs := rfl
@[simp] theorem setWin_clk (c : Chip) (s : Nat) (f : Win → Win) : (c.setWin s f).clk = c.clk := rfl
theorem setWin_wins (c : Chip) (s : Nat) (f : Win → Win) : (c.setWin s f).wins = modifyAt c.wins s f := rfl
@[simp] theorem setWin_fab (c : Chip) (s : Nat) (f : Win → Win) : (c.setWin s f).fab = c.fab := rfl
@[simp] theorem setWin_quay (c : Chip) (s : Nat) (f : Win → Win) : (c.setWin s f).quay = c.quay := rfl
@[simp] theorem setWin_pilot (c : Chip) (s : Nat) (f : Win → Win) : (c.setWin s f).pilot = c.pilot := rfl
@[simp] theorem setWin_fuses (c : Chip) (s : Nat) (f : Win → Win) : (c.setWin s f).fuses = c.fuses := rfl
@[simp] theorem setWin_pins (c : Chip) (s : Nat) (f : Win → Win) : (c.setWin s f).pins = c.pins := rfl
@[simp] theorem setWin_defects (c : Chip) (s : Nat) (f : Win → Win) : (c.setWin s f).defects = c.defects := rfl
@[simp] theorem setWin_free (c : Chip) (s : Nat) (f : Win → Win) : (c.setWin s f).free = c.free := rfl
@[simp] theorem setWin_wire (c : Chip) (s : Nat) (f : Win → Win) : (c.setWin s f).wire = c.wire := rfl
@[simp] theorem setWin_fresh (c : Chip) (s : Nat) (f : Win → Win) : (c.setWin s f).fresh = c.fresh := rfl

@[simp] theorem setFlow_dev (c : Chip) (i : Nat) (f : Flow → Flow) : (c.setFlow i f).dev = c.dev := rfl
@[simp] theorem setFlow_tide (c : Chip) (i : Nat) (f : Flow → Flow) : (c.setFlow i f).tide = c.tide := rfl
@[simp] theorem setFlow_regs (c : Chip) (i : Nat) (f : Flow → Flow) : (c.setFlow i f).regs = c.regs := rfl
@[simp] theorem setFlow_mem (c : Chip) (i : Nat) (f : Flow → Flow) : (c.setFlow i f).mem = c.mem := rfl
@[simp] theorem setFlow_vregs (c : Chip) (i : Nat) (f : Flow → Flow) : (c.setFlow i f).vregs = c.vregs := rfl
@[simp] theorem setFlow_vstore (c : Chip) (i : Nat) (f : Flow → Flow) : (c.setFlow i f).vstore = c.vstore := rfl
@[simp] theorem setFlow_vpoison (c : Chip) (i : Nat) (f : Flow → Flow) : (c.setFlow i f).vpoison = c.vpoison := rfl
@[simp] theorem setFlow_vsErr (c : Chip) (i : Nat) (f : Flow → Flow) : (c.setFlow i f).vsErr = c.vsErr := rfl
@[simp] theorem setFlow_vrErr (c : Chip) (i : Nat) (f : Flow → Flow) : (c.setFlow i f).vrErr = c.vrErr := rfl
@[simp] theorem setFlow_host (c : Chip) (i : Nat) (f : Flow → Flow) : (c.setFlow i f).host = c.host := rfl
@[simp] theorem setFlow_hostBad (c : Chip) (i : Nat) (f : Flow → Flow) : (c.setFlow i f).hostBad = c.hostBad := rfl
@[simp] theorem setFlow_cores (c : Chip) (i : Nat) (f : Flow → Flow) : (c.setFlow i f).cores = c.cores := rfl
@[simp] theorem setFlow_basins (c : Chip) (i : Nat) (f : Flow → Flow) : (c.setFlow i f).basins = c.basins := rfl
@[simp] theorem setFlow_progs (c : Chip) (i : Nat) (f : Flow → Flow) : (c.setFlow i f).progs = c.progs := rfl
@[simp] theorem setFlow_clk (c : Chip) (i : Nat) (f : Flow → Flow) : (c.setFlow i f).clk = c.clk := rfl
@[simp] theorem setFlow_wins (c : Chip) (i : Nat) (f : Flow → Flow) : (c.setFlow i f).wins = c.wins := rfl
@[simp] theorem setFlow_fab (c : Chip) (i : Nat) (f : Flow → Flow) : (c.setFlow i f).fab = c.fab := rfl
@[simp] theorem setFlow_pilot (c : Chip) (i : Nat) (f : Flow → Flow) : (c.setFlow i f).pilot = c.pilot := rfl
@[simp] theorem setFlow_fuses (c : Chip) (i : Nat) (f : Flow → Flow) : (c.setFlow i f).fuses = c.fuses := rfl
@[simp] theorem setFlow_pins (c : Chip) (i : Nat) (f : Flow → Flow) : (c.setFlow i f).pins = c.pins := rfl
@[simp] theorem setFlow_defects (c : Chip) (i : Nat) (f : Flow → Flow) : (c.setFlow i f).defects = c.defects := rfl
@[simp] theorem setFlow_free (c : Chip) (i : Nat) (f : Flow → Flow) : (c.setFlow i f).free = c.free := rfl
@[simp] theorem setFlow_wire (c : Chip) (i : Nat) (f : Flow → Flow) : (c.setFlow i f).wire = c.wire := rfl
@[simp] theorem setFlow_fresh (c : Chip) (i : Nat) (f : Flow → Flow) : (c.setFlow i f).fresh = c.fresh := rfl
theorem setFlow_quay_flows (c : Chip) (i : Nat) (f : Flow → Flow) : (c.setFlow i f).quay.flows = modifyAt c.quay.flows i f := rfl
@[simp] theorem setFlow_quay_cmds (c : Chip) (i : Nat) (f : Flow → Flow) : (c.setFlow i f).quay.cmds = c.quay.cmds := rfl
@[simp] theorem setFlow_quay_hreads (c : Chip) (i : Nat) (f : Flow → Flow) : (c.setFlow i f).quay.hreads = c.quay.hreads := rfl
@[simp] theorem setFlow_quay_tag (c : Chip) (i : Nat) (f : Flow → Flow) : (c.setFlow i f).quay.tag = c.quay.tag := rfl
@[simp] theorem setFlow_quay_digests (c : Chip) (i : Nat) (f : Flow → Flow) : (c.setFlow i f).quay.digests = c.quay.digests := rfl
@[simp] theorem setFlow_quay_silence (c : Chip) (i : Nat) (f : Flow → Flow) : (c.setFlow i f).quay.silence = c.quay.silence := rfl
@[simp] theorem setFlow_quay_silent (c : Chip) (i : Nat) (f : Flow → Flow) : (c.setFlow i f).quay.silent = c.quay.silent := rfl
@[simp] theorem setFlow_quay_beats (c : Chip) (i : Nat) (f : Flow → Flow) : (c.setFlow i f).quay.beats = c.quay.beats := rfl
@[simp] theorem setFlow_quay_beatAt (c : Chip) (i : Nat) (f : Flow → Flow) : (c.setFlow i f).quay.beatAt = c.quay.beatAt := rfl
@[simp] theorem setFlow_quay_pausing (c : Chip) (i : Nat) (f : Flow → Flow) : (c.setFlow i f).quay.pausing = c.quay.pausing := rfl
@[simp] theorem setFlow_quay_paused (c : Chip) (i : Nat) (f : Flow → Flow) : (c.setFlow i f).quay.paused = c.quay.paused := rfl
@[simp] theorem setFlow_quay_held (c : Chip) (i : Nat) (f : Flow → Flow) : (c.setFlow i f).quay.held = c.quay.held := rfl
@[simp] theorem setFlow_quay_completed (c : Chip) (i : Nat) (f : Flow → Flow) : (c.setFlow i f).quay.completed = c.quay.completed := rfl

@[simp] theorem setPort_dev (c : Chip) (p : Nat) (f : Port → Port) : (c.setPort p f).dev = c.dev := rfl
@[simp] theorem setPort_tide (c : Chip) (p : Nat) (f : Port → Port) : (c.setPort p f).tide = c.tide := rfl
@[simp] theorem setPort_regs (c : Chip) (p : Nat) (f : Port → Port) : (c.setPort p f).regs = c.regs := rfl
@[simp] theorem setPort_mem (c : Chip) (p : Nat) (f : Port → Port) : (c.setPort p f).mem = c.mem := rfl
@[simp] theorem setPort_vregs (c : Chip) (p : Nat) (f : Port → Port) : (c.setPort p f).vregs = c.vregs := rfl
@[simp] theorem setPort_vstore (c : Chip) (p : Nat) (f : Port → Port) : (c.setPort p f).vstore = c.vstore := rfl
@[simp] theorem setPort_vpoison (c : Chip) (p : Nat) (f : Port → Port) : (c.setPort p f).vpoison = c.vpoison := rfl
@[simp] theorem setPort_vsErr (c : Chip) (p : Nat) (f : Port → Port) : (c.setPort p f).vsErr = c.vsErr := rfl
@[simp] theorem setPort_vrErr (c : Chip) (p : Nat) (f : Port → Port) : (c.setPort p f).vrErr = c.vrErr := rfl
@[simp] theorem setPort_host (c : Chip) (p : Nat) (f : Port → Port) : (c.setPort p f).host = c.host := rfl
@[simp] theorem setPort_hostBad (c : Chip) (p : Nat) (f : Port → Port) : (c.setPort p f).hostBad = c.hostBad := rfl
@[simp] theorem setPort_cores (c : Chip) (p : Nat) (f : Port → Port) : (c.setPort p f).cores = c.cores := rfl
@[simp] theorem setPort_basins (c : Chip) (p : Nat) (f : Port → Port) : (c.setPort p f).basins = c.basins := rfl
@[simp] theorem setPort_progs (c : Chip) (p : Nat) (f : Port → Port) : (c.setPort p f).progs = c.progs := rfl
@[simp] theorem setPort_clk (c : Chip) (p : Nat) (f : Port → Port) : (c.setPort p f).clk = c.clk := rfl
@[simp] theorem setPort_wins (c : Chip) (p : Nat) (f : Port → Port) : (c.setPort p f).wins = c.wins := rfl
@[simp] theorem setPort_quay (c : Chip) (p : Nat) (f : Port → Port) : (c.setPort p f).quay = c.quay := rfl
@[simp] theorem setPort_pilot (c : Chip) (p : Nat) (f : Port → Port) : (c.setPort p f).pilot = c.pilot := rfl
@[simp] theorem setPort_fuses (c : Chip) (p : Nat) (f : Port → Port) : (c.setPort p f).fuses = c.fuses := rfl
@[simp] theorem setPort_pins (c : Chip) (p : Nat) (f : Port → Port) : (c.setPort p f).pins = c.pins := rfl
@[simp] theorem setPort_defects (c : Chip) (p : Nat) (f : Port → Port) : (c.setPort p f).defects = c.defects := rfl
@[simp] theorem setPort_free (c : Chip) (p : Nat) (f : Port → Port) : (c.setPort p f).free = c.free := rfl
@[simp] theorem setPort_wire (c : Chip) (p : Nat) (f : Port → Port) : (c.setPort p f).wire = c.wire := rfl
@[simp] theorem setPort_fresh (c : Chip) (p : Nat) (f : Port → Port) : (c.setPort p f).fresh = c.fresh := rfl
theorem setPort_fab_ports (c : Chip) (p : Nat) (f : Port → Port) : (c.setPort p f).fab.ports = modifyAt c.fab.ports p f := rfl
@[simp] theorem setPort_fab_rr (c : Chip) (p : Nat) (f : Port → Port) : (c.setPort p f).fab.rr = c.fab.rr := rfl
@[simp] theorem setPort_fab_copies (c : Chip) (p : Nat) (f : Port → Port) : (c.setPort p f).fab.copies = c.fab.copies := rfl
@[simp] theorem setPort_fab_cache (c : Chip) (p : Nat) (f : Port → Port) : (c.setPort p f).fab.cache = c.fab.cache := rfl
@[simp] theorem setPort_fab_prefetch (c : Chip) (p : Nat) (f : Port → Port) : (c.setPort p f).fab.prefetch = c.fab.prefetch := rfl
@[simp] theorem setPort_fab_down (c : Chip) (p : Nat) (f : Port → Port) : (c.setPort p f).fab.down = c.fab.down := rfl

@[simp] theorem out_dev (c : Chip) (o : Out) : (c.out o).dev = c.dev := rfl
@[simp] theorem out_tide (c : Chip) (o : Out) : (c.out o).tide = c.tide := rfl
@[simp] theorem out_regs (c : Chip) (o : Out) : (c.out o).regs = c.regs := rfl
@[simp] theorem out_mem (c : Chip) (o : Out) : (c.out o).mem = c.mem := rfl
@[simp] theorem out_vregs (c : Chip) (o : Out) : (c.out o).vregs = c.vregs := rfl
@[simp] theorem out_vstore (c : Chip) (o : Out) : (c.out o).vstore = c.vstore := rfl
@[simp] theorem out_vpoison (c : Chip) (o : Out) : (c.out o).vpoison = c.vpoison := rfl
@[simp] theorem out_vsErr (c : Chip) (o : Out) : (c.out o).vsErr = c.vsErr := rfl
@[simp] theorem out_vrErr (c : Chip) (o : Out) : (c.out o).vrErr = c.vrErr := rfl
@[simp] theorem out_host (c : Chip) (o : Out) : (c.out o).host = c.host := rfl
@[simp] theorem out_hostBad (c : Chip) (o : Out) : (c.out o).hostBad = c.hostBad := rfl
@[simp] theorem out_cores (c : Chip) (o : Out) : (c.out o).cores = c.cores := rfl
@[simp] theorem out_basins (c : Chip) (o : Out) : (c.out o).basins = c.basins := rfl
@[simp] theorem out_progs (c : Chip) (o : Out) : (c.out o).progs = c.progs := rfl
@[simp] theorem out_clk (c : Chip) (o : Out) : (c.out o).clk = c.clk := rfl
@[simp] theorem out_wins (c : Chip) (o : Out) : (c.out o).wins = c.wins := rfl
@[simp] theorem out_fab (c : Chip) (o : Out) : (c.out o).fab = c.fab := rfl
@[simp] theorem out_quay (c : Chip) (o : Out) : (c.out o).quay = c.quay := rfl
@[simp] theorem out_pilot (c : Chip) (o : Out) : (c.out o).pilot = c.pilot := rfl
@[simp] theorem out_fuses (c : Chip) (o : Out) : (c.out o).fuses = c.fuses := rfl
@[simp] theorem out_pins (c : Chip) (o : Out) : (c.out o).pins = c.pins := rfl
@[simp] theorem out_defects (c : Chip) (o : Out) : (c.out o).defects = c.defects := rfl
@[simp] theorem out_free (c : Chip) (o : Out) : (c.out o).free = c.free := rfl
theorem out_wire (c : Chip) (o : Out) : (c.out o).wire = c.wire ++ [o] := rfl
@[simp] theorem out_fresh (c : Chip) (o : Out) : (c.out o).fresh = c.fresh := rfl

/-! ### The element updated, and every other one -/

theorem core_setCore (c : Chip) (i : Nat) (f : Core → Core) (h : i < c.cores.length) : (c.setCore i f).core i = f (c.core i) :=
  getD_modifyAt_self _ _ _ _ h
theorem core_setCore_ne (c : Chip) (i j : Nat) (f : Core → Core) (h : j ≠ i) : (c.setCore i f).core j = c.core j :=
  getD_modifyAt_ne _ _ _ _ _ h
theorem basin_setBasin (c : Chip) (b : Nat) (f : Basin → Basin) (h : b < c.basins.length) : (c.setBasin b f).basin b = f (c.basin b) :=
  getD_modifyAt_self _ _ _ _ h
theorem basin_setBasin_ne (c : Chip) (b x : Nat) (f : Basin → Basin) (h : x ≠ b) : (c.setBasin b f).basin x = c.basin x :=
  getD_modifyAt_ne _ _ _ _ _ h
theorem win_setWin (c : Chip) (s : Nat) (f : Win → Win) (h : s < c.wins.length) : (c.setWin s f).win s = f (c.win s) :=
  getD_modifyAt_self _ _ _ _ h
theorem win_setWin_ne (c : Chip) (s x : Nat) (f : Win → Win) (h : x ≠ s) : (c.setWin s f).win x = c.win x :=
  getD_modifyAt_ne _ _ _ _ _ h
theorem flow_setFlow (c : Chip) (i : Nat) (f : Flow → Flow) (h : i < c.quay.flows.length) : (c.setFlow i f).flow i = f (c.flow i) :=
  getD_modifyAt_self _ _ _ _ h
theorem flow_setFlow_ne (c : Chip) (i x : Nat) (f : Flow → Flow) (h : x ≠ i) : (c.setFlow i f).flow x = c.flow x :=
  getD_modifyAt_ne _ _ _ _ _ h
theorem port_setPort (c : Chip) (p : Nat) (f : Port → Port) (h : p < c.fab.ports.length) : (c.setPort p f).port p = f (c.port p) :=
  getD_modifyAt_self _ _ _ _ h
theorem port_setPort_ne (c : Chip) (p x : Nat) (f : Port → Port) (h : x ≠ p) : (c.setPort p f).port x = c.port x :=
  getD_modifyAt_ne _ _ _ _ _ h

end Chip
end Sys2Proof.Machine
end

