-- ==== Sys2Proof/Laws/Registers.lean ====
section
/-! SUPPORT. Laws of the register file: what a write of a field, an event and a capture do, once for each operation. -/

namespace Sys2Proof.Machine.Chip

theorem regField_eq (c : Chip) (a lo w : Nat) : c.regField a lo w = fget (c.reg a) lo w := rfl
theorem setField_eq (c : Chip) (a lo w x : Nat) : c.setField a lo w x = c.put a (fset (c.reg a) lo w x) := rfl

@[simp] theorem reg_put (c : Chip) (a : Nat) (v : Word) : (c.put a v).reg a = v := Sparse.get_set_self _ _ _ _
theorem reg_put_ne (c : Chip) (a b : Nat) (v : Word) (h : b ≠ a) : (c.put a v).reg b = c.reg b := Sparse.get_set_ne _ _ _ _ _ h

theorem reg_setField (c : Chip) (a lo w x : Nat) : (c.setField a lo w x).reg a = fset (c.reg a) lo w x := Sparse.get_set_self _ _ _ _
theorem reg_setField_ne (c : Chip) (a b lo w x : Nat) (h : b ≠ a) : (c.setField a lo w x).reg b = c.reg b :=
  Sparse.get_set_ne _ _ _ _ _ h
theorem regField_setField (c : Chip) (a lo w x : Nat) (h : lo + w ≤ 64) : (c.setField a lo w x).regField a lo w = x % 2 ^ w := by
  rw [regField_eq, reg_setField, fget_fset_same _ _ _ _ h]
/-- Another field of the same register keeps its value. -/
theorem regField_setField_apart (c : Chip) (a lo w x lo' w' : Nat) (h : lo' + w' ≤ 64) (hd : lo' + w' ≤ lo ∨ lo + w ≤ lo') :
    (c.setField a lo w x).regField a lo' w' = c.regField a lo' w' := by
  rw [regField_eq, reg_setField, fget_fset_ne _ _ _ _ _ _ h hd, regField_eq]
theorem regField_setField_ne (c : Chip) (a b lo w x lo' w' : Nat) (h : b ≠ a) :
    (c.setField a lo w x).regField b lo' w' = c.regField b lo' w' := by
  rw [regField_eq, reg_setField_ne _ _ _ _ _ _ h, regField_eq]
theorem regField_put_ne (c : Chip) (a b : Nat) (v : Word) (lo w : Nat) (h : b ≠ a) : (c.put a v).regField b lo w = c.regField b lo w := by
  rw [regField_eq, reg_put_ne _ _ _ _ h, regField_eq]
@[simp] theorem regField_put (c : Chip) (a : Nat) (v : Word) (lo w : Nat) : (c.put a v).regField a lo w = fget v lo w := by
  rw [regField_eq, reg_put]

theorem addField_eq (c : Chip) (a lo w k : Nat) : c.addField a lo w k = c.setField a lo w (satAdd w (c.regField a lo w) k) := rfl
theorem reg_addField_ne (c : Chip) (a b lo w k : Nat) (h : b ≠ a) : (c.addField a lo w k).reg b = c.reg b :=
  reg_setField_ne _ _ _ _ _ _ h
theorem regField_addField (c : Chip) (a lo w k : Nat) (h : lo + w ≤ 64) :
    (c.addField a lo w k).regField a lo w = satAdd w (c.regField a lo w) k := by
  rw [addField_eq, regField_setField _ _ _ _ _ h, Nat.mod_eq_of_lt]
  have := satAdd_le w (c.regField a lo w) k
  have := Nat.two_pow_pos w
  omega

/-- Register values are the only thing these operations touch, and the values at the registers they name. -/
theorem events_eq (c : Chip) (a f n : Nat) (h : n ≠ 0) :
    c.events a f n = { (c.setField a f 1 1).addField (a + 8 * (f + 1)) 0 32 n with fresh := c.cycleNow.set a f } := by
  simp only [events, regEvents, h, if_false]; rfl
@[simp] theorem events_zero (c : Chip) (a f : Nat) : c.events a f 0 = c := rfl
theorem event_eq (c : Chip) (a f : Nat) :
    c.event a f = { (c.setField a f 1 1).addField (a + 8 * (f + 1)) 0 32 1 with fresh := c.cycleNow.set a f } := rfl
theorem reg_event (c : Chip) (a f b : Nat) :
    (c.event a f).reg b = ((c.setField a f 1 1).addField (a + 8 * (f + 1)) 0 32 1).reg b := rfl
theorem reg_event_ne (c : Chip) (a f b : Nat) (h : b ≠ a) (h' : b ≠ a + 8 * (f + 1)) : (c.event a f).reg b = c.reg b := by
  rw [reg_event, reg_addField_ne _ _ _ _ _ _ h', reg_setField_ne _ _ _ _ _ _ h]
/-- The flag stands after an event. -/
theorem regField_event (c : Chip) (a f : Nat) (h : f < 64) : (c.event a f).regField a f 1 = 1 := by
  rw [regField_eq, reg_event, reg_addField_ne _ _ _ _ _ _ (by omega), ← regField_eq, regField_setField _ _ _ _ _ (by omega)]
  all_goals rfl
/-- Its companion counter takes it. -/
theorem regField_event_count (c : Chip) (a f : Nat) :
    (c.event a f).regField (a + 8 * (f + 1)) 0 32 = satAdd 32 (c.regField (a + 8 * (f + 1)) 0 32) 1 := by
  rw [regField_eq, reg_event, ← regField_eq, regField_addField _ _ _ _ _ (by omega), regField_setField_ne _ _ _ _ _ _ _ _ (by omega)]

/-- A capture stands until it is read. -/
theorem reg_latch (c : Chip) (a b : Nat) (v : Word) : (c.latch a v).reg b = (if fbit (c.reg a) 0 then c else c.put a v).reg b := by
  unfold latch regLatch; split <;> simp_all [reg, put]

/-- The present cycle has no event once the tick is another. -/
theorem cycleNow_later (c : Chip) (h : c.fresh.tick ≠ c.tide ∨ c.fresh.since ≠ c.pilot.sinceGood) :
    c.cycleNow = Fresh.none c.tide c.pilot.sinceGood := by
  unfold cycleNow; rw [if_neg]; simp; omega

end Sys2Proof.Machine.Chip
end

