-- ==== Sys2Proof/Laws/Commands.lean ====
section
/-! SUPPORT. Laws of the shared operations: how an admitted command is answered, and what replies, reports, faults and reads of memory
may touch. -/

namespace Sys2Proof.Machine

/-- A meaning goes on with the chip its operation gives. -/
theorem upd_goes {s : State} {f : Chip → Chip} {d : Chip} (h : f s.chip = d) : s.upd f = s.goes d := by subst h; rfl

namespace Chip

/-- An admitted command does what its own rule says: it fails, it is done and replied to, or it is held and goes on. -/
theorem answer_of_admits {c : Chip} {h : Hdr} {op : Nat} {sc : Scope} {w : Bool} {k : Chip → Ans} (ha : c.Admits h op sc w) :
    c.answer h op sc w k = match k c with
      | .fail st => c.reply h op st []
      | .done d st body => if c.replyFits h.flow body.length then d.reply h op st body else c.reply h op .badParam []
      | .pend f => match (f (c.hold h op)).2 with
        | some x => (f (c.hold h op)).1.finalReply h op x
        | none => (f (c.hold h op)).1 := by
  obtain ⟨h1, h2, h3, h4⟩ := ha
  unfold answer
  simp only [h1, h2, h3, h4]
  cases k c with
  | fail st => simp
  | done d st body => cases hf : c.replyFits h.flow body.length <;> simp [hf]
  | pend f => simp <;> rfl

/-- A command that is turned away in steps 3 and 4 of R391 only replies. -/
theorem answer_of_refused {c : Chip} {h : Hdr} {op : Nat} {sc : Scope} {w : Bool} {k : Chip → Ans} {st : Status}
    (h1 : c.dev ≠ .off) (h2 : c.dev ≠ .boot) (h3 : c.refusalOf h op sc w = some st) : c.answer h op sc w k = c.reply h op st [] := by
  unfold answer; simp [h1, h2, h3]

/-- A property of chips that an operation keeps holds after any run of it. -/
theorem run_keeps {α : Type} {P : Chip → Prop} {op : Chip → α → Chip} (keeps : ∀ c a, P c → P (op c a)) (l : List α) {c : Chip}
    (start : P c) : P (l.foldl op c) :=
  List.foldlRecOn l op start fun _ h a _ => keeps _ a h

/-- What a reply, a send and a log entry may touch. -/
abbrev Replied (c d : Chip) : Prop :=
  ∃ r q w x n, d = { c with regs := r, quay := q, wire := w, fresh := x, pilot := { c.pilot with holds := n } }
/-- What a report, a charge and an event may touch. -/
abbrev Recorded (c d : Chip) : Prop := ∃ r x, d = { c with regs := r, fresh := x }
/-- What a fault and the start of a drain may touch: they are told to the pilot as well. -/
abbrev Told (c d : Chip) : Prop := ∃ r x p, d = { c with regs := r, fresh := x, pilot := { c.pilot with copies := p } }

theorem Replied.refl (c : Chip) : Replied c c := ⟨_, _, _, _, _, rfl⟩
theorem Replied.trans {c d e : Chip} : Replied c d → Replied d e → Replied c e := by
  rintro ⟨r, q, w, x, n, rfl⟩ ⟨r', q', w', x', n', rfl⟩; exact ⟨r', q', w', x', n', rfl⟩
theorem Recorded.refl (c : Chip) : Recorded c c := ⟨_, _, rfl⟩
theorem Recorded.trans {c d e : Chip} : Recorded c d → Recorded d e → Recorded c e := by
  rintro ⟨r, x, rfl⟩ ⟨r', x', rfl⟩; exact ⟨r', x', rfl⟩
theorem Recorded.replied {c d : Chip} : Recorded c d → Replied c d := by
  rintro ⟨r, x, rfl⟩; exact ⟨r, _, _, x, _, rfl⟩
theorem Recorded.told {c d : Chip} : Recorded c d → Told c d := by
  rintro ⟨r, x, rfl⟩; exact ⟨r, x, _, rfl⟩
theorem Told.refl (c : Chip) : Told c c := ⟨_, _, _, rfl⟩
theorem Told.trans {c d e : Chip} : Told c d → Told d e → Told c e := by
  rintro ⟨r, x, p, rfl⟩ ⟨r', x', p', rfl⟩; exact ⟨r', x', p', rfl⟩

theorem quayOut_replied (c : Chip) (o : Out) : Replied c (c.quayOut o) := by
  unfold quayOut; split <;> exact ⟨_, _, _, _, _, rfl⟩
theorem addField_recorded (c : Chip) (a lo w k : Nat) : Recorded c (c.addField a lo w k) := ⟨_, _, rfl⟩
theorem setField_recorded (c : Chip) (a lo w x : Nat) : Recorded c (c.setField a lo w x) := ⟨_, _, rfl⟩
theorem put_recorded (c : Chip) (a : Nat) (v : Word) : Recorded c (c.put a v) := ⟨_, _, rfl⟩
theorem event_recorded (c : Chip) (a f : Nat) : Recorded c (c.event a f) := ⟨_, _, rfl⟩
theorem latch_recorded (c : Chip) (a : Nat) (v : Word) : Recorded c (c.latch a v) := ⟨_, _, rfl⟩
theorem setFlow_replied (c : Chip) (i : Nat) (f : Flow → Flow) : Replied c (c.setFlow i f) := ⟨_, _, _, _, _, rfl⟩

/-- A send touches the quay, what has left the package, and registers. -/
theorem sendNow_replied (c : Chip) (f t : Nat) (p : List Byte) : Replied c (c.sendNow f t p) :=
  ((setFlow_replied c _ _).trans (quayOut_replied _ _)).trans (addField_recorded _ _ _ _ _).replied
theorem send_replied (c : Chip) (f t : Nat) (p : List Byte) : Replied c (c.send f t p) := by
  unfold send; dsimp only
  split
  · exact .refl c
  · split
    · exact sendNow_replied c f t p
    · exact setFlow_replied _ _ _

theorem logCmd_replied (c : Chip) (h : Hdr) (op : Nat) (st : Status) : Replied c (c.logCmd h op st) := ⟨_, _, _, _, _, rfl⟩

theorem holds_replied (c : Chip) (st : Status) :
    Replied c (if st = .hold then { c with pilot := { c.pilot with holds := c.pilot.holds + 1 } } else c) := by
  split
  · exact ⟨_, _, _, _, _, rfl⟩
  · exact .refl c

/-- A reply touches the quay, what has left the package, registers, and the count of INTEGRITY_HOLD replies. -/
theorem reply_replied (c : Chip) (h : Hdr) (op : Nat) (st : Status) (body : List Byte) : Replied c (c.reply h op st body) := by
  have k := (send_replied c h.flow 2 (replyPacket h op st c.tide body)).trans (holds_replied _ st)
  unfold reply
  dsimp only
  generalize (if st = .hold then _ else _) = d at k ⊢
  split
  · exact k
  · exact k.trans (logCmd_replied _ _ _ _)

theorem hold_replied (c : Chip) (h : Hdr) (op : Nat) : Replied c (c.hold h op) := (reply_replied c h op .pending []).trans ⟨_, _, _, _, _, rfl⟩

theorem replyTo_replied (c : Chip) (p : PendCmd) (st : Status) (body : List Byte) : Replied c (c.replyTo p st body) := by
  unfold replyTo
  split
  · exact reply_replied _ _ _ _ _
  · exact logCmd_replied _ _ _ _

theorem replyAll_replied (c : Chip) (l : List PendCmd) (st : Status) (body : List Byte) :
    Replied c (l.foldl (fun c p => c.replyTo p st body) c) :=
  run_keeps (P := Replied c) (fun _ p h => h.trans (replyTo_replied _ p st body)) l (.refl c)

/-- The final replies of pending commands touch the quay, what has left the package, and registers. -/
theorem finish_replied (c : Chip) (op b : Nat) (st : Status) (body : List Byte) : Replied c (c.finish op b st body) :=
  Replied.trans (d := { c with quay := { c.quay with cmds := c.quay.cmds.filter fun p => !(c.pendingFor op b).contains p } })
    ⟨_, _, _, _, _, rfl⟩ (replyAll_replied _ _ _ _)
theorem finishAll_replied (c : Chip) (op : Nat) (st : Status) (body : List Byte) : Replied c (c.finishAll op st body) :=
  Replied.trans (d := { c with quay := { c.quay with cmds := c.quay.cmds.filter fun p => p.opcode ≠ op } })
    ⟨_, _, _, _, _, rfl⟩ (replyAll_replied _ _ _ _)

/-! ### Operations that touch registers alone -/

theorem foldl_recorded {α : Type} (f : Chip → α → Chip) (hf : ∀ c a, Recorded c (f c a)) (l : List α) (c : Chip) :
    Recorded c (l.foldl f c) := run_keeps (P := Recorded c) (fun _ a h => h.trans (hf _ a)) l (.refl c)

theorem lateEvent_recorded (c : Chip) (b : Nat) : Recorded c (c.lateEvent b) := by
  unfold lateEvent; split <;> exact ⟨_, _, rfl⟩
/-- An integrity report touches registers alone. -/
theorem report_recorded (c : Chip) (core kind agent addr : Nat) : Recorded c (c.report core kind agent addr) :=
  (((event_recorded c _ _).trans (latch_recorded _ _ _)).trans (setField_recorded _ _ _ _ _)).trans (lateEvent_recorded _ _)
/-- A charge touches registers alone. -/
theorem charge_recorded (c : Chip) (core unit cause cycle : Nat) : Recorded c (c.charge core unit cause cycle) :=
  (((((addField_recorded c _ _ _ _).trans (addField_recorded _ _ _ _ _)).trans (event_recorded _ _ _)).trans
    (latch_recorded _ _ _)).trans (setField_recorded _ _ _ _ _)).trans (lateEvent_recorded _ _)
theorem foldl_told {α : Type} (f : Chip → α → Chip) (hf : ∀ c a, Told c (f c a)) (l : List α) (c : Chip) :
    Told c (l.foldl f c) := run_keeps (P := Told c) (fun _ a h => h.trans (hf _ a)) l (.refl c)
theorem tell_told (c : Chip) (code die block basin : Nat) (v : Word) : Told c (c.tell code die block basin v) := by
  unfold tell; split <;> exact ⟨_, _, _, rfl⟩
/-- A capture sends its copy or finds its record held. -/
theorem capture_told (c : Chip) (a : Nat) (v : Word) (code basin : Nat) : Told c (c.capture a v code basin) := by
  unfold capture; split
  · exact (latch_recorded _ _ _).told
  · exact (latch_recorded _ _ _).told.trans (tell_told _ _ _ _ _ _)
theorem flagReplacement_told (c : Chip) : Told c c.flagReplacement := by
  unfold flagReplacement; split
  · exact .refl c
  · exact (setField_recorded _ _ _ _ _).told.trans (tell_told _ _ _ _ _ _)
theorem startDrain_told (c : Chip) (code die basin : Nat) (r : Bool) : Told c (c.startDrain code die basin r) := by
  have first : Told c (if c.regField R.seqDrain 0 1 = 1 then c else (c.put R.seqDrain ((c.reg R.seqDrain) |||
      packF [(0, 1, 1), (5, 4, code), (9, 6, die), (15, 2, basin), (21, 43, c.tide)])).tellDrain 0x10) := by
    split
    · exact .refl c
    · exact (put_recorded _ _ _).told.trans (tell_told _ _ _ _ _ _)
  unfold startDrain; dsimp only
  split
  · exact first.trans (flagReplacement_told _)
  · exact first
/-- A hardware fault touches registers and tells the pilot. -/
theorem hwFault_told (c : Chip) (code die k unit : Nat) : Told c (c.hwFault code die k unit) := by
  unfold hwFault; dsimp only
  refine ((foldl_told _ ?_ _ c).trans (foldl_told _ ?_ _ _)).trans (startDrain_told _ _ _ _ _)
  · intro c a
    exact ((event_recorded c _ _).told.trans (capture_told _ _ _ _ _)).trans (setField_recorded _ _ _ _ _).told
  · intro c b; split <;> exact ⟨_, _, _, rfl⟩

end Chip
end Sys2Proof.Machine
end

