-- ==== Sys2Proof/Laws/Memory.lean ====
section
/-! SUPPORT. Laws of the memory: the canonical form is kept by every operation on it, a store shows where it was made and nowhere
else. -/

namespace Sys2Proof.Machine.Mem

theorem wf_parts (m : Mem) : m.wf = true ↔ Sparse.wf byteDefault m.cells = true ∧ Sparse.wf falseDefault m.poison = true ∧
    Sparse.wf errDefault m.lineErr = true ∧ Sparse.wf zeroDefault m.wordErr = true := by
  simp [wf, and_assoc]

theorem wf_reset : Mem.reset.wf = true := rfl

theorem wf_setByte (m : Mem) (a : Nat) (v : Byte) (h : m.wf = true) : (m.setByte a v).wf = true := by
  rw [wf_parts] at *; exact ⟨Sparse.wf_set _ _ _ _ h.1, h.2⟩
theorem wf_setPoison (m : Mem) (u : Nat) (p : Bool) (h : m.wf = true) : (m.setPoison u p).wf = true := by
  rw [wf_parts] at *; exact ⟨h.1, Sparse.wf_set _ _ _ _ h.2.1, h.2.2⟩
theorem wf_setLineRaw (m : Mem) (u : Nat) (e : Errors) (h : m.wf = true) : (m.setLineRaw u e).wf = true := by
  rw [wf_parts] at *; exact ⟨h.1, h.2.1, Sparse.wf_set _ _ _ _ h.2.2.1, h.2.2.2⟩
theorem wf_setWordErr (m : Mem) (u n : Nat) (h : m.wf = true) : (m.setWordErr u n).wf = true := by
  rw [wf_parts] at *; exact ⟨h.1, h.2.1, h.2.2.1, Sparse.wf_set _ _ _ _ h.2.2.2⟩
theorem wf_renew (m : Mem) (u : Nat) (h : m.wf = true) : (m.renew u).wf = true := wf_setLineRaw _ _ _ h

theorem wf_storeBytes (m : Mem) (a : Nat) (l : List PByte) (h : m.wf = true) : (m.storeBytes a l).wf = true := by
  fun_induction storeBytes m a l with
  | case1 => assumption
  | case2 m a v l ih => exact ih (wf_setByte m a _ h)

theorem wf_settle (m : Mem) (t : Nat → Nat) (u : Nat) (h : m.wf = true) : (m.settle t u).wf = true := by
  have hf : (if isScratch u then m.setWordErr u 0 else m.renew u).wf = true := by
    split
    · exact wf_setWordErr _ _ _ h
    · exact wf_renew _ _ h
  unfold settle
  dsimp only
  split
  · exact hf
  · exact wf_storeBytes _ _ _ hf

theorem wf_writeUnit (m : Mem) (t : Nat → Nat) (a : Nat) (l : List PByte) (h : m.wf = true) : (m.writeUnit t a l).wf = true := by
  unfold writeUnit
  dsimp only
  split <;> exact wf_setPoison _ _ _ (wf_storeBytes _ _ _ (wf_settle _ _ _ h))

theorem wf_writeAux (t : Nat → Nat) (fuel : Nat) (m : Mem) (a : Nat) (l : List PByte) (h : m.wf = true) :
    (writeAux t fuel m a l).wf = true := by
  fun_induction writeAux t fuel m a l <;> simp_all [wf_writeUnit]

/-- Every write keeps the canonical form. -/
theorem wf_write (m : Mem) (t : Nat → Nat) (a : Nat) (l : List PByte) (h : m.wf = true) : (m.write t a l).wf = true :=
  wf_writeAux _ _ _ _ _ h

@[simp] theorem byte_setByte (m : Mem) (a : Nat) (v : Byte) : (m.setByte a v).byte a = v := Sparse.get_set_self _ _ _ _
theorem byte_setByte_ne (m : Mem) (a b : Nat) (v : Byte) (h : b ≠ a) : (m.setByte a v).byte b = m.byte b :=
  Sparse.get_set_ne _ _ _ _ _ h
@[simp] theorem byte_setPoison (m : Mem) (u : Nat) (p : Bool) (a : Nat) : (m.setPoison u p).byte a = m.byte a := rfl
@[simp] theorem byte_renew (m : Mem) (u a : Nat) : (m.renew u).byte a = m.byte a := rfl
@[simp] theorem byte_setWordErr (m : Mem) (u n a : Nat) : (m.setWordErr u n).byte a = m.byte a := rfl
@[simp] theorem byte_setLineRaw (m : Mem) (u : Nat) (e : Errors) (a : Nat) : (m.setLineRaw u e).byte a = m.byte a := rfl

theorem byte_setByte_eq (m : Mem) (a b : Nat) (v : Byte) : (m.setByte a v).byte b = if b = a then v else m.byte b :=
  Sparse.get_set _ _ _ _ _

/-- The bytes stored, and every other byte. -/
theorem byte_storeBytes (m : Mem) (a x : Nat) (l : List PByte) :
    (m.storeBytes a l).byte x = if a ≤ x ∧ x < a + l.length then ((l[x - a]?).join).getD 0 else m.byte x := by
  fun_induction storeBytes m a l with
  | case1 m a => simp <;> omega
  | case2 m a v l ih =>
    rw [ih, byte_setByte_eq]
    rcases Nat.lt_trichotomy x a with h | rfl | h
    · simp [Nat.not_le.2 h, Nat.ne_of_lt h] <;> omega
    · simp <;> omega
    · obtain ⟨k, rfl⟩ : ∃ k, x = a + 1 + k := ⟨x - (a + 1), by omega⟩
      have e : a + 1 + k - a = k + 1 := by omega
      simp [e] <;> grind

@[simp] theorem poisoned_storeBytes (m : Mem) (a x : Nat) (l : List PByte) : (m.storeBytes a l).poisoned x = m.poisoned x := by
  fun_induction storeBytes m a l with
  | case1 => rfl
  | case2 m a v l ih => exact ih

end Sys2Proof.Machine.Mem

namespace Sys2Proof.Machine.Chip

theorem wf_poke (c : Chip) (a : Nat) (l : List PByte) (h : c.mem.wf = true) : (c.poke a l).mem.wf = true := by
  rw [poke_mem]; exact Mem.wf_write _ _ _ _ h

end Sys2Proof.Machine.Chip
end

