-- ==== Sys2Proof/Machine/Lands.lean ====
section
/-! DEFINITION. The land grid of the package (R447 to R449, Tables 13.1 and 13.2) and its thermal design power (R456). Nothing the
package does depends on a land. -/

namespace Sys2Proof.Machine

/-- What a land carries (Table 13.1). -/
inductive LandGroup where
  | vin | vio | reserved | quay (lane s : Nat) | tidelink (port lane s : Nat) | control (column : Nat) | gnd
  deriving DecidableEq, Repr

/-- Whether a land is populated (R447). -/
def landPopulated (row col : Nat) : Bool :=
  let within (lo hi x : Nat) := decide (lo ≤ x) && decide (x ≤ hi)
  within 20 179 row && within 20 179 col && !(within 84 115 row && within 84 115 col)

/-- The land of signal `s` of a quay lane: row and column (R449). -/
def quayLand (lane s : Nat) : Nat × Nat := (20 + s, 82 + 4 * lane)

/-- Whether a tidelink port stands on a west harbour die (R449). -/
def portWest (port : Nat) : Bool := decide (port % 8 < 4)

/-- The index of a port on its side, in ascending port order (R449). -/
def sideIndex (port : Nat) : Nat := 4 * (port / 8) + port % 4

/-- The land of signal `s` of a tidelink lane (R449). -/
def tidelinkLand (port lane s : Nat) : Nat × Nat :=
  (24 + 9 * sideIndex port + 2 * lane + s / 2, if portWest port then 20 + 2 * (s % 2) else 179 - 2 * (s % 2))

/-- The port of a side by its index. -/
def sidePort (west : Bool) (i : Nat) : Nat := 8 * (i / 4) + (if west then 0 else 4) + i % 4

/-- What a populated land carries; what Table 13.1 does not assign is GND (R448, R449). -/
def landGroup (row col : Nat) : LandGroup :=
  if 128 ≤ row ∧ row ≤ 151 ∧ 36 ≤ col ∧ col ≤ 163 then .vin
  else if row = 172 ∧ 50 ≤ col ∧ col ≤ 113 then .vio
  else if row = 174 ∧ 50 ≤ col ∧ col ≤ 109 then .reserved
  else if row = 178 ∧ 60 ≤ col ∧ col ≤ 95 then .control col
  else if row < 24 ∧ 82 ≤ col ∧ col ≤ 110 ∧ col % 4 = 2 then .quay ((col - 82) / 4) (row - 20)
  else
    let west := decide (col ≤ 22)
    let n := (row - 24) % 9
    if 24 ≤ row ∧ row < 168 ∧ n < 8 ∧ (col = 20 ∨ col = 22 ∨ col = 177 ∨ col = 179) then
      .tidelink (sidePort west ((row - 24) / 9)) (n / 2) (2 * (n % 2) + if col = 20 ∨ col = 179 then 0 else 1)
    else .gnd

/-- The signals of row 178 from column 060 on (Table 13.2). -/
def controlSignals : List String :=
  ["TIDE_REF_P", "TIDE_REF_N", "TIDE_SYNC_P", "TIDE_SYNC_N", "ETH_REF_P", "ETH_REF_N", "MGMT_TX_P", "MGMT_TX_N", "MGMT_RX_P",
   "MGMT_RX_N", "XSPI_CS_N", "XSPI_SCK", "XSPI_DQS", "XSPI_RESET_N", "XSPI_DQ0", "XSPI_DQ1", "XSPI_DQ2", "XSPI_DQ3", "XSPI_DQ4",
   "XSPI_DQ5", "XSPI_DQ6", "XSPI_DQ7", "I2C_SCL", "I2C_SDA", "JTAG_TCK", "JTAG_TMS", "JTAG_TDI", "JTAG_TDO", "JTAG_TRST_N",
   "BOARD_EN", "PKG_PWRGD", "PKG_FAULT_N", "THERMTRIP_N", "ADDR_SEL", "VIN_SENSE_P", "VIN_SENSE_N"]

/-- Thermal design power at an operating point, W; none bound: READY with no schedule (R456, Table 13.5). -/
def designPower (op : Option Nat) : Nat := match op with | none => 950 | some o => [3900, 3350, 2850, 2000].getD o 0

end Sys2Proof.Machine
end

