-- ==== Sys2Proof/WellFormed.lean ====
section
/-! DEFINITION. The shape a command must have to be one of the package's: field widths of the command packet and of the
operands (Table 11.4, R41, R38). Commands of any shape have a meaning; an ill-formed one could not be spelled. -/

namespace Sys2Proof

namespace Hdr
/-- Field widths of a command header (Table 11.4): flow 0 to 15, seq a word, basin a byte. -/
def wf (h : Hdr) : Bool := h.flow < 16 && h.seq < 2 ^ 32 && h.basin < 256
end Hdr

namespace LinkMsg
/-- Field widths of flit and message headers (Tables 09.4 to 09.6). -/
def wf (m : LinkMsg) : Bool :=
  m.port < 64 && m.kind < 16 && m.dx < 16 && m.dy < 16 && m.dz < 16 && m.dbasin < 4 && m.sx < 16 && m.sy < 16 &&
    m.sz < 16 && m.sbasin < 4 && m.body < 2 ^ 64 && (m.cargo.length == 0 || m.cargo.length == 64)
end LinkMsg

namespace Instr
/-- Well-formed commands: every operand fits its field. -/
def wf : Instr → Bool
  | nop h | heartbeat h | stepCommit h | stepDiscard h | preempt h | intStatus h | adjudicationLog h
  | identityRead h | thermalRead h _ => h.wf
  | attest h n => h.wf && n.length == 32
  | lifecycleSet h t _ => h.wf && t.length == 5520
  | regRead h a => h.wf && a < 2 ^ 32
  | regWrite h a _ => h.wf && a < 2 ^ 32
  | regReadBlock h a n => h.wf && a < 2 ^ 32 && n < 2 ^ 32
  | pltBasinCutWrite h _ | arm h _ | portModeChange h _ => h.wf
  | hbcWaysWrite h d _ => h.wf && 20 ≤ d && d < 36
  | lnkTopoWrite h d _ => h.wf && 20 ≤ d && d < 36
  | push h d _ => h.wf && 20 ≤ d && d < 36
  | cacheRangeWrite h s r _ => h.wf && s < 20 && r < 8
  | stepLoad h b _ => h.wf && b < 4
  | dvorRingWrite h b _ _ => h.wf && b < 4
  | chkStateLoad h k _ => h.wf && k < 40
  | moorDeclare h b r _ _ => h.wf && b < 4 && r < 64
  | memWrite h a d => h.wf && a < 2 ^ 64 && d.length < 2 ^ 32
  | memRead h a n | memFill h a n _ => h.wf && a < 2 ^ 64 && n < 2 ^ 64
  | memDigest h a n p => h.wf && a < 2 ^ 64 && n < 2 ^ 64 && p < 4
  | progLoad h s a n => h.wf && s < 256 && a < 2 ^ 64 && n < 2 ^ 64
  | progBind h s m => h.wf && s < 256 && m < 256
  | launchAtTide h t => h.wf && t < 2 ^ 64
  | fabricConfig h _ m g => h.wf && m < 2 ^ 16 && g.length == 16 && g.all (· < 2 ^ 256)
  | slotTableLoad h m t => h.wf && m < 256 && t.length == 448
  | barrierConfig h i g l _ => h.wf && i < 256 && g < 256 && l < 2 ^ 32
  | rankAssign h r g l => h.wf && r < 256 && g < 256 && l.length < 2 ^ 16 && l.all (· < 2 ^ 32)
  | drain h m r => h.wf && m < 256 && r < 256
  | replicaDigest h m r b n => h.wf && m < 256 && r < 256 && b < 2 ^ 64 && n < 2 ^ 64
  | wipe h x => h.wf && x < 2 ^ 64
  | powerPoint h o p => h.wf && o < 256 && p < 2 ^ 16
  | launch b | gateEvaluation b | basinPreempted b | barrierRelease b | scheduleComplete b | collTimeout b _ => b < 4
  | bundle k | barrierTimeout k | tideWaitRelease k | adjudication k | ebbPass k | barOver k => k < 40
  | fetchLate k _ | fabricLate k _ | chkLate k _ => k < 40
  | streamLate k e o _ _ => k < 40 && e < 8 && o < 4
  | compiledWindow s _ _ _ | insertedWindow s _ _ _ | freeRunningWindow s _ _ _ | guardWindow s _ _ _ => s < 20
  | refLost d | refRecovery d => d < 40
  | powerTrip c d _ => c < 16 && d < 64
  | enterFaulted c d => c < 16 && d < 64
  | errorReport _ d _ _ _ => d < 64
  | cmd d _ | ack d | openFlow d | hdata d _ => d.bytes.length < 2 ^ 16
  | sendAck f => f < 16
  | rto f p => f < 16 && p < 2 ^ 32
  | hostTimeout f _ => f < 16
  | arpRequest _ a => a < 2 ^ 32
  | neighborSolicitation _ a => a < 2 ^ 128
  | priorityFlowControl p _ => p < 8
  | xqReset d _ _ _ | xqTimeout d _ => d < 40
  | nak p _ | retry p | portFail p _ | idle p _ _ _ | linkBringUp p _ => p < 32
  | portctl o _ | test o _ => o.port < 32
  | copy o d _ _ => o.port < 32 && d < 2 ^ 48
  | forward m | contrib m | grant m | result m | data m | ebbStart m | ebbEnd m | barArrive m | barRelease m => m.wf
  | slotActive l s => l < 7 && s < 64
  | jtagPrivate c a _ => c < 256 && a < 2 ^ 48
  | bypass c => c < 256
  | i2cWriteOffset w => w.addr < 128 && w.n < 256
  | i2cRead r => r.addr < 128
  | quayLinkUp l => l < 256
  | wipeComplete _ | wipeIncomplete _ _ | drainEnter | tideSyncPulse | controlPeriod _ | fastLimit
  | fastLimitEnd | boardEnHigh | powerGood _ | powerGoodTimeout | boardEnLow | supplyOff | fuse _ _ | flash _ | verify
  | config _ | bootWipe _ _ | ready _ _ _ | timeout | bootReport | keyReport | telemetry _ | trngFail | replacementBlow
  | beat | hostSilent | rotationPeriod | rotationStandby | rotationJoin | extest | idcode | samplePreload _ | clamp
  | highz | idread | quayLinkDown | mgmtLinkDown | mgmtLinkUp | testLogicReset => true
end Instr
end Sys2Proof
end

