-- ==== Sys2Proof/Tests/Slice0.lean ====
section
/-! SUPPORT. Tests of this author: what the well-formedness checks refuse, values that the spec's tables and examples give, and a
witness for the hypotheses of every statement. -/

namespace Sys2Proof.Tests
open Sys2Proof Sys2Proof.Machine

set_option Elab.async false
set_option maxRecDepth 100000

/-! ### Small states and operands -/

def hp : Hdr := { flow := 0, seq := 7, basin := 0, pkg := true }
def hb : Hdr := { flow := 0, seq := 7, basin := 0, pkg := false }
def c0 : Chip := Chip.reset
def s0 : State := State.reset
/-- The chip after one row. -/
def run (i : Instr) (c : Chip) : Chip :=
  match exec i { chip := c, pending := [] } with
  | .next t => t.chip
  | _ => c
/-- The status that entry `n` of the command log holds. -/
def logged (c : Chip) (n : Nat) : Nat := fget (c.reg (R.seqCmdLog n)) 21 8
def msg : LinkMsg :=
  { port := 0, kind := 1, dx := 0, dy := 0, dz := 0, dbasin := 0, dharb := 0, sx := 0, sy := 0, sz := 0, sbasin := 0, sharb := 0,
    body := 0, cargo := [], payload := [] }
def dgram : Dgram :=
  { frameLen := 100, fcsOk := true, fecFixed := 0, fecLost := 0, vlan := none, ipv6 := false, headersOk := true, dstMac := 0, dstAddr := 0, dstPort := 0, srcAddr := 0, srcMac := 0,
    srcPort := 0, ce := false, bytes := [] }
/-- A whole message, in order, on a port whose next flit is `n`. -/
def via (port n : Nat) : PortIn := { port := port, flit := { pseq := n, vc := 0, bad := none, ack := 0, cvc := 0, ccount := 0 } }
def readings : Readings := { power := 1000, vin := 1200, iin := 900, vio := 330, logic := List.replicate 40 50, dram := List.replicate 20 50 }
def env : CmdEnv := { nonce := [], latency := 0, readings := readings }

/-! ### Well-formedness: one ill-formed term for each check -/

theorem test_wf_header : ([Instr.nop { hp with flow := 16 }, .heartbeat { hp with seq := 2 ^ 32 }, .preempt { hp with basin := 256 },
    .stepCommit { hp with flow := 16 }, .stepDiscard { hp with flow := 16 }, .intStatus { hp with flow := 16 },
    .adjudicationLog { hp with flow := 16 }, .identityRead { hp with flow := 16 }, .thermalRead { hp with flow := 16 } readings,
    .pltBasinCutWrite { hp with flow := 16 } 0, .arm { hp with flow := 16 } 0, .portModeChange { hp with flow := 16 } 0].any Instr.wf) =
    false := by decide
theorem test_wf_register : ([Instr.regRead hp (2 ^ 32), .regWrite hp (2 ^ 32) 0, .regReadBlock hp (2 ^ 32) 1, .regReadBlock hp 0 (2 ^ 32),
    .hbcWaysWrite hp 19 0, .hbcWaysWrite hp 36 0, .lnkTopoWrite hp 19 0, .lnkTopoWrite hp 36 0, .push hp 19 0, .push hp 36 0,
    .cacheRangeWrite hp 20 0 0, .cacheRangeWrite hp 0 8 0, .stepLoad hp 4 0, .dvorRingWrite hp 4 true 0, .chkStateLoad hp 40 0,
    .moorDeclare hp 4 0 true 0, .moorDeclare hp 0 64 true 0].any Instr.wf) = false := by decide
theorem test_wf_memory : ([Instr.memWrite hp (2 ^ 64) [], .memRead hp (2 ^ 64) 8, .memRead hp 0 (2 ^ 64), .memFill hp (2 ^ 64) 8 0,
    .memFill hp 0 (2 ^ 64) 0, .memDigest hp (2 ^ 64) 64 0, .memDigest hp 0 (2 ^ 64) 0, .memDigest hp 0 64 4].any Instr.wf) = false := by decide
theorem test_wf_program : ([Instr.progLoad hp 256 0 64, .progLoad hp 0 (2 ^ 64) 64, .progLoad hp 0 0 (2 ^ 64), .progBind hb 256 0,
    .progBind hb 0 256, .launchAtTide hb (2 ^ 64), .attest hp [], .lifecycleSet hp [] [], .wipe hp (2 ^ 64), .powerPoint hp 256 0,
    .powerPoint hp 0 (2 ^ 16), .drain hp 256 0, .drain hp 0 256, .replicaDigest hb 256 0 0 0, .replicaDigest hb 0 256 0 0,
    .replicaDigest hb 0 0 (2 ^ 64) 0, .replicaDigest hb 0 0 0 (2 ^ 64)].any Instr.wf) = false := by decide
theorem test_wf_fabric : ([Instr.fabricConfig hp 0 (2 ^ 16) (List.replicate 16 0), .fabricConfig hp 0 0 [],
    .fabricConfig hp 0 0 (2 ^ 256 :: List.replicate 15 0), .slotTableLoad hp 256 [], .slotTableLoad hp 0 [], .barrierConfig hp 256 0 0 0,
    .barrierConfig hp 0 256 0 0, .barrierConfig hp 0 0 (2 ^ 32) 0, .rankAssign hb 256 0 [], .rankAssign hb 0 256 [],
    .rankAssign hb 0 0 [2 ^ 32]].any Instr.wf) = false := by decide
theorem test_wf_events : ([Instr.launch 4, .gateEvaluation 4, .basinPreempted 4, .barrierRelease 4, .scheduleComplete 4, .collTimeout 4 0,
    .bundle 40, .barrierTimeout 40, .tideWaitRelease 40, .adjudication 40, .ebbPass 40, .barOver 40, .fetchLate 40 1, .fabricLate 40 1,
    .chkLate 40 1, .streamLate 40 0 0 0 1, .streamLate 0 8 0 0 1, .streamLate 0 0 4 0 1, .compiledWindow 20 50 [] false,
    .insertedWindow 20 50 [] false, .freeRunningWindow 20 50 [] false, .guardWindow 20 50 [] false, .refLost 40, .refRecovery 40,
    .powerTrip 16 0 0, .powerTrip 0 64 0, .enterFaulted 16 0, .enterFaulted 0 64, .errorReport 0 64 0 0 0].any Instr.wf) = false := by decide
theorem test_wf_quay : ([Instr.sendAck 16, .rto 16 0, .rto 0 (2 ^ 32), .hostTimeout 16 0, .arpRequest false (2 ^ 32),
    .neighborSolicitation false (2 ^ 128), .priorityFlowControl 8 true, .xqReset 40 0 true 0, .xqTimeout 40 0, .quayLinkUp 256].any
    Instr.wf) = false := by decide
theorem test_wf_datagram : (2 ^ 16 ≤ (List.replicate 70000 (0 : Byte)).length) ∧ ([dgram].all fun d =>
    (Instr.cmd d env).wf && (Instr.ack d).wf && (Instr.openFlow d).wf && (Instr.hdata d env).wf) = true := by
  rw [List.length_replicate]; decide
theorem test_wf_links : ([Instr.nak 32 0, .retry 32, .portFail 32 0, .portctl (via 32 0) 0, .test (via 32 0) [], .idle 32 0 0 0, .linkBringUp 32 0,
    .copy (via 32 0) 0 [] [], .copy (via 0 0) (2 ^ 48) [] [], .slotActive 7 0, .slotActive 0 64, .jtagPrivate 256 0 none, .jtagPrivate 0x80 (2 ^ 48) none,
    .bypass 256, .i2cWriteOffset { addr := 0x4C, n := 256 }, .i2cRead { addr := 128, n := 1 }].any Instr.wf) = false := by decide
theorem test_wf_message : ([Instr.contrib { msg with port := 64 }, .grant { msg with kind := 16 }, .result { msg with dx := 16 },
    .data { msg with dy := 16 }, .ebbStart { msg with dz := 16 }, .ebbEnd { msg with dbasin := 4 }, .barArrive { msg with sx := 16 },
    .barRelease { msg with sy := 16 }, .forward { msg with sz := 16 }, .forward { msg with sbasin := 4 },
    .forward { msg with body := 2 ^ 64 }, .forward { msg with cargo := [0] }].any Instr.wf) = false := by decide

/-! ### Numbers: Tables 02.7, 02.8, 02.12 to 02.14, 02.21, 02.22 -/

theorem test_l8_codes : ([0x00, 0x01, 0x38, 0x40, 0x41, 0x48, 0x7E, 0x7F, 0x80, 0xC0, 0xFF].map fun x => (encA40 (decLog .l8 x 0).val).toNat) =
    [0, 0x3F7172B83C, 0x3FE0000000, 0x3FF0000000, 0x3FF172B83C, 0x4000000000, 0x406AE89F99, 0x7FF0000000, 0x7FF8000000, 0xBFF0000000,
      0xFFF0000000] := by decide
theorem test_l16_codes : ([0x0000, 0x0001, 0x4000, 0x4001, 0x4080, 0x4100, 0x7FFF, 0x8000, 0xC000, 0xFFFF].map fun x =>
    (encA40 (decLog .l16 x 0).val).toNat) = [0, 0x3BF00B1AFA, 0x3FF0000000, 0x3FF00B1AFA, 0x3FF6A09E66, 0x4000000000, 0x7FF0000000,
      0x7FF8000000, 0xBFF0000000, 0xFFF0000000] := by decide +kernel
theorem test_t256 : ([0, 1, 32, 64, 96, 128, 160, 192, 224].map t256) =
    [0, 0x00B1AFA, 0x172B83C, 0x306FE0A, 0x4BFDAD5, 0x6A09E66, 0x8ACE542, 0xAE89F99, 0xD5818DD] := by decide +kernel
theorem test_products : (product (.inf true) .zero).2 = some .invalidProduct ∧ product .zero (.fin true 0 2 0) = (0, none) ∧
    (product (.inf true) (.fin false 0 2 0)) = (0xFFF0000000, some .infInput) ∧ (product .nan .zero).2 = some .nanInput := by decide
/-- Table 02.22: an FP32 block to L4, nearest. -/
theorem test_block_l4 : (let r : Rnd := Rnd.ofBits 0
    let v := [0x40C00000, 0xC0400000, 0x3F000000, 0x3F080000].map fun x => some (decF32 x)
    let b := convBlock .l4 r [none, none, none, none] v
    (b.1, b.2.map ConvElt.code)) = (0x82, [6, 0xC, 0, 1]) := by decide
/-- Table 02.21: an overflowing block in both modes. -/
theorem test_block_overflow : (let v := [0x4818000000, 0x47D0000000, 0xC770000000, 0].map fun x => some (decA40 x)
    let u := [none, none, none, none]
    let b := convBlock .l4 (Rnd.ofBits 4) u v
    let d := convBlock .l4 (Rnd.ofBits 0) u v
    (b.1, b.2.map ConvElt.code, d.1, d.2.map ConvElt.code)) = (0xFE, [7, 5, 0, 0], 0xFF, [7, 7, 15, 0]) := by decide

/-- Table 06.15: the check values over "123456789". -/
theorem test_crc : ([0, 1, 2, 3].map fun p => crc p (ascii "123456789")) = [0xCBF43926, 0xE3069283, 0x995DC9BBDF1939FA, 0x29B1] := by decide +kernel

/-! ### Draws: Table 08.3 -/

theorem test_draw_key : tuirdKey 0x8796A5B4C3D2E1F00F1E2D3C4B5A6978 1840112 =
    { a := 0x4B467A88, b := 0x0F1E2D3C, c := 0xC3D2E1F0, d := 0x8796A5B4 } := by decide
theorem test_draw_counter : tuirdCounter 5 9 1 3 200 1234567 = { a := 0x0012D687, b := 0, c := 0x008486C8, d := 5 } := by decide

/-! ### Commands from reset: status codes of Table 11.5 -/

theorem test_nop : logged (run (.nop hp) c0) 0 = 0 ∧ (run (.nop hp) c0).regField R.seqCmdPtr 0 6 = 1 := by decide
theorem test_reg_read_undefined : logged (run (.regRead hp (ra 0 0x0F 0)) c0) 0 = 0x11 := by decide
theorem test_reg_block_past_end : logged (run (.regReadBlock hp (R.seqCmdLog 0) 1025) c0) 0 = 0x11 := by decide
theorem test_cut_four : (run (.pltBasinCutWrite hp 2) c0).basinCount = 4 ∧ (run (.pltBasinCutWrite hp 2) c0).firstHarbour 3 = 32 := by decide +kernel
theorem test_cut_reserved : logged (run (.pltBasinCutWrite hp 3) c0) 0 = 0x11 := by decide
theorem test_ways : (run (.hbcWaysWrite hp 20 24) c0).pinnedWays 20 = 24 ∧ logged (run (.hbcWaysWrite hp 20 25) c0) 0 = 0x11 := by decide
theorem test_mem_write : (run (.memWrite hp 0x100 [1, 2, 3, 4, 5, 6, 7, 8]) c0).peek 0x100 9 =
    clean [1, 2, 3, 4, 5, 6, 7, 8, 0] := by decide
theorem test_mem_write_unaligned : logged (run (.memWrite hp 0x101 [1, 2, 3, 4, 5, 6, 7, 8]) c0) 0 = 0x11 := by decide
theorem test_mem_write_empty : logged (run (.memWrite hp 0x100 []) c0) 0 = 0x11 := by decide
theorem test_mem_fill : (run (.memFill hp 0x20000000000 16 0x0102030405060708) c0).peek 0x20000000000 16 =
    clean [8, 7, 6, 5, 4, 3, 2, 1, 8, 7, 6, 5, 4, 3, 2, 1] := by decide
theorem test_mem_read_hole : logged (run (.memRead hp (20 * Chip.stackSize) 8) c0) 0 = 0x11 := by decide
theorem test_mem_digest_length : logged (run (.memDigest hp 0 63 2) c0) 0 = 0x11 ∧ logged (run (.memDigest hp 0 0 2) c0) 0 = 0x11 := by decide
theorem test_launch_unbound : logged (run (.launchAtTide hb 60000) c0) 0 = 0x12 ∧ logged (run (.launchAtTide hb 49999) c0) 0 = 0x11 := by
  decide
theorem test_commit_without_step : logged (run (.stepCommit hb) c0) 0 = 0x12 := by decide
theorem test_preempt_idle : logged (run (.preempt hb) c0) 0 = 0x12 := by decide
theorem test_bind_empty_slot : logged (run (.progBind hb 0 0) c0) 0 = 0x12 := by decide
theorem test_scope : logged (run (.preempt hp) c0) 0 = 0x11 ∧ logged (run (.preempt { hb with basin := 1 }) c0) 0 = 0x11 := by decide
theorem test_drain_waits : (run (.drain hp 0 1) c0).regField R.seqDrain 0 1 = 1 ∧ (run (.drain hp 0 1) c0).dev = .ready ∧
    (run .drainEnter (run (.drain hp 0 1) c0)).dev = .drain := by decide
theorem test_drain_refuses_write : logged (run (.memWrite hp 0 [1, 2, 3, 4, 5, 6, 7, 8]) { c0 with dev := .drain }) 0 = 0x31 := by decide
theorem test_wipe_word : logged (run (.wipe hp 0) c0) 0 = 0x11 ∧ (run (.wipe hp 0x45504957) c0).dev = .wipe := by decide
theorem test_power_point : logged (run (.powerPoint hp 4 0) c0) 0 = 0x11 ∧ logged (run (.powerPoint hp 0 1499) c0) 0 = 0x11 ∧
    (run (.powerPoint hp 0 1500) c0).regField R.pwrCap 0 16 = 1500 := by decide
theorem test_topology : logged (run (.lnkTopoWrite hp 20 1) c0) 0 = 0x11 ∧ logged (run (.lnkTopoWrite hp 20 (1 + 15 * 4)) c0) 0 = 0 := by
  decide
theorem test_push_unaligned : logged (run (.push hp 20 (2 ^ 40 + 1)) c0) 0 = 0x11 ∧
    ((run (.push hp 20 (2 ^ 40 + 128)) c0).copyQueue 20).length = 1 := by decide
theorem test_step_load : ((run (.stepLoad hp 0 41) c0).reg (R.seqStep 0)) = 41 := by decide +kernel
theorem test_arm : (run (.arm hp 1) c0).regField (Chip.refStatus 39) 3 1 = 1 := by decide

/-! ### Events from reset -/

theorem test_tick : (c0.pass 3).tide = 3 ∧ (c0.pass 3).clk.framePos = 3 := by decide +kernel
theorem test_idle_step : step s0 = .next { s0 with chip := c0.pass 1 } := rfl
theorem test_step_takes_front : step { s0 with pending := [.nop hp, .preempt hb] } =
    .next { chip := run (.nop hp) c0, pending := [.preempt hb] } := rfl
theorem test_sync_pulse : (run .tideSyncPulse (run (.arm hp 1) (c0.put R.tidSyncValue 500000))).tide = 500000 := by decide
theorem test_ref_lost : (run (.refLost 38) c0).regField R.tidRefStatus 0 3 = 4 := by decide
theorem test_fast_limit : (run .fastLimit c0).wantedLevel = 32 ∧ (run .fastLimit c0).regField R.pwrStatus 52 1 = 1 := by decide
theorem test_supply_off : (run .supplyOff c0).dev = .off ∧ (run .supplyOff (run (.memWrite hp 0 [1, 2, 3, 4, 5, 6, 7, 8]) c0)).mem = Mem.reset := by
  decide
theorem test_power_good : (run (.powerGood true) (run .boardEnHigh (run .boardEnLow c0))).pilot.stage = .fuse := by decide
theorem test_boot_timeout : (run .timeout (run (.powerGood true) (run .boardEnHigh (run .boardEnLow c0)))).regField R.pltBootStatus 8 8 =
    0x30 := by decide
theorem test_trip : (run (.powerTrip 4 7 126) c0).dev = .faulted ∧ (run (.powerTrip 4 7 126) c0).pins.thermtrip = true := by decide
theorem test_guard_window : ((run (.guardWindow 0 50 [] false) c0).win 0).lastTick = 7800 ∧
    ((run (.guardWindow 0 50 [] false) c0).win 0).left = 120 := by decide +kernel
theorem test_idcode : (run .idcode c0).pilot.ir = 1 ∧ (run .idcode c0).pilot.dr.length = 4 := by decide
theorem test_link_up : (run (.linkBringUp 0 77) c0).portUp 0 = true ∧ (run (.linkBringUp 0 77) c0).regField (R.lnkPort 0) 10 22 = 77 := by
  decide
theorem test_link_fails : (run (.portFail 0 1) (run (.linkBringUp 0 77) c0)).portRole 0 = 2 := by decide
theorem test_quay_up : (run (.quayLinkUp 255) c0).regField R.quaPhy 2 1 = 1 := by decide
theorem test_life_cycle : lifeState Fuses.reset = 3 ∧ lifeState { Fuses.reset with entries := 1 } = 4 ∧
    lifeState { Fuses.reset with retired := true } = 5 := by decide
/-- R247: a body of two bundles with one further iteration is taken twice, then the bundle after it. -/
theorem test_loop : (let l := [{ start := 5, iterLeft := 1, lenM1 := 1 : Loop }]
    let a := loopNext l 5
    let b := loopNext a.2 a.1
    let c := loopNext b.2 b.1
    let d := loopNext c.2 c.1
    [a.1, b.1, c.1, d.1]) = [6, 5, 6, 7] := by decide
/-- R235: the ticks of a frame that carry an edge at OP3. -/
theorem test_op3 : (List.range 10).filter (fun p => edgesIn (edgesPerFrame 3) p 1 = 1) = [0, 1, 3, 5, 6, 8] := by decide
/-- R195: five wrong symbols pass a limit of six and fail a limit of four. -/
theorem test_decode : (let u := Chip.pinnedBase 20
    let m := Mem.reset.setLineRaw u [(0, 1), (1, 1), (2, 1), (3, 1), (143, 0x80)]
    (m.decode (fun _ => 6) u, m.decode (fun _ => 4) u)) = (.corrected, .bad) := by decide +kernel
/-- R192: one wrong bit of an inner word is put right on the DRAM die, before the outer code sees it. -/
theorem test_inner : (let m := Mem.reset.setLineRaw 0 [(5, 0x10)]
    (m.decode (fun _ => 6) 0, m.innerErrors 0)) = (.good, 1) := by decide +kernel
/-- R190: line 128 n + c of a stack is line n of channel c. -/
theorem test_stack_map : Chip.stackMap (128 * (128 * (512 * 3 + 16 * 5 + 7) + 9) + 4) =
    { channel := 9, die := 1, bank := 5, row := 3, col := 7 } := by decide
/-- R199: a poisoned byte poisons its line alone. -/
theorem test_poison : (let m := Mem.reset.write (fun _ => 6) 0x80 [none, some 1]
    (m.poisoned 0xFF, m.poisoned 0x7F, m.poisoned 0x100, m.byte 0x81)) = (true, false, false, 0) := by decide +kernel

/-! ### Witnesses: states and operands that meet the hypotheses of each statement

Hypotheses on what the spec leaves uninterpreted (that a token or an image is authentic, what a private JTAG code addresses) have no
witness: no proof can see those values. -/

/-- Flow 0 open; cut into four; two ports of direction 0 up. -/
def cf : Chip := c0.setFlow 0 fun f => { f with state := 1, session := 9 }
def c4 : Chip := c0.put R.pltBasinCut 2
def cl : Chip := run (.linkBringUp 1 77) (run (.linkBringUp 0 77) c0)
/-- A ring of sixteen packages, the same with slot mode, and a message to its fourth package. -/
def ct : Chip := (cl.put (R.lnkTopo 20) (1 + 15 * 4))
def cs : Chip := (cl.put (R.lnkTopo 20) (BitVec.ofNat 64 (2 ^ 28)))
def far : LinkMsg := { msg with dx := 3 }
/-- A message waits in port 0's replay buffer after sixteen retries. -/
def ch : Chip := cl.setPort 0 fun x => { x with replay := [{ pseq := 1, flits := 2, vc := 3, job := 0, m := msg }], retries := 16 }
/-- Basin 0 is in RUN and under way, its cores in cycle 5, one bundle of wait each; before its launch; with an undecided step. -/
def cu : Chip := (c0.setField (R.seqStepStatus 0) 8 1 1)
def cr : Chip := (List.range 40).foldl (fun c i => c.setCore i fun k => { k with phase := .run, cycle := 5 })
  (cu.setBasin 0 fun x => { x with running := true, live := true })
def cw : Chip := cu.setBasin 0 fun x => { x with running := true, t := 50000 }
/-- The same with its gate open; its cores held at a barrier, at GATE_WAIT, in an ebb, and ended. -/
def cg : Chip := cr.setField (R.seqGate 0) 0 1 1
def aHold (k : HoldKind) : Hold := { kind := k, start := 0, edges := 3, barOver := false, timedOut := false }
def held (k : HoldKind) : Chip := (List.range 40).foldl (fun c i => c.setCore i fun x => { x with hold := some (aHold k) }) cr
def ebb : Ebb := { causes := 1, core := 0, pend := [{ core := 0, cause := 1, left := some 4 }], held := 0, start := 6 }
def ce : Chip := (List.range 40).foldl (fun c i => c.setCore i fun x => { x with ebb := some ebb }) cr
def cn : Chip := (List.range 40).foldl (fun c i => c.setCore i fun x => { x with phase := .ended }) cr
def cp : Chip := cn.setBasin 0 fun x => { x with preempting := true }
/-- Faulted, draining, wiping, booting and unpowered packages. -/
def dev (d : Dev) : Chip := { c0 with dev := d }
def boot (st : Stage) : Chip := { c0 with dev := .boot, pilot := { c0.pilot with stage := st, sinceGood := 0 } }
/-- A boot that has halted. -/
def halted : Chip := { boot .fuse with pilot := { (boot .fuse).pilot with halted := true } }
/-- A program image for a basin of ten cores: a header and one schedule of ten streams of one bundle. -/
def imageLen : Nat := 64 + 256 + 10 * 64
def image : List PByte := clean (toLE 4 0x474D4951 ++ toLE 1 1 ++ toLE 1 1 ++ toLE 1 1 ++ toLE 1 0 ++ toLE 8 imageLen ++
  toLE 8 64 ++ toLE 8 (256 + 10 * 64) ++ List.replicate 32 0 ++
  toLE 1 1 ++ toLE 1 10 ++ List.replicate 62 0 ++ ((List.range 10).map fun b => toLE 6 (64 * b + 0x100000) ++ toLE 4 1 ++
    List.replicate 6 0).flatten ++ List.replicate 32 0 ++ List.replicate (10 * 64) 0)
def imageScheds : List Sched := match c4.readImage image with
  | .ok l => l
  | .error _ => []
/-- The package with that image in slot 0. -/
def loaded : Chip := c4.loadSlot 0 0x200000 image imageScheds
/-- A life-cycle token from DEPLOYED to DEBUG. -/
def token : List Byte := 4 :: List.replicate 5519 0
/-- A posted SEND, and a failed block of an array. -/
def aColl : Coll :=
  { kind := 3, group := 0, peer := 0, tag := 0, inFmt := 0, outFmt := 0, rnd := 0, n := 16, src := 0, dst := 0, seq := 0, order := 0,
    core := 3, issue := 4, deadline := 5, tick := 0, loose := false, contribs := [], granted := [], folded := [], delivered := [], held := [],
    launch := 0, sent := [], epoch := 0 }
/-- A basin of rank 1 in group 0 with rank 0, its pod barrier 1 configured, rank 0 at the message's source. -/
def pod (c : Chip) : Chip := (((c.put (R.redGroup (c.redAt 0) 0 0) 3).put (R.redIdent (c.redAt 0)) 1).put (R.redBar (c.redAt 0) 1) 0x10).put
  (R.redRankmap (c.redAt 0) 0) 0x4000
/-- A posted reduction that has granted member 1 its cargo 0, and that member's cargo of a given epoch. -/
def aRed : Coll := { aColl with kind := 1, inFmt := 5, outFmt := 5, granted := [(0, 1)] }
def cRed : Chip := (pod c0).setBasin 0 fun x => { x with colls := [aRed] }
def cargoHdr (epoch : Nat) : CargoHdr :=
  { seq := 0, kind := 1, group := 0, src := 1, owner := 0, fmt := 5, flags := 0, cargo := 0, elements := 16, epoch := epoch, wsum := 0,
    wmag := 0, csum := 0, cmag := 0, members := 1 }
def cargoMsg (epoch : Nat) : LinkMsg :=
  { msg with payload := List.replicate 32 0, cargo := (cargoHdr epoch).seal (List.replicate 32 0) }
def aContrib (n : Nat) : Contrib :=
  { cargo := 0, member := n, payload := [1, 2, 3, 4], wsum := 0, wmag := 0, poisoned := false, mismatch := false, loose := false, port := 0 }
/-- A window digest of basin 0 that waits for no host data. -/
def aDigest : DigestJob := { cmd := { h := hb, opcode := 0x0204, session := 0 }, addr := 2 ^ 44, len := 64, poly := 1, reads := [] }
def anAdj : Adj :=
  { array := 0, berth := 0, block := 0, verdict := 1, c1 := true, c2 := false, c3 := false, firstVec := 0, firstCol := 0, locStatus := 0,
    locCol := 0, locK := 0, outs := [], passSeq := 0, passStart := 0, vectors := 1 }
/-- The quay with a peer, and a datagram of it for flow 0, session 9. -/
def cq : Chip := (((((run (.quayLinkUp 255) cf).put R.quaIp4 1).setField R.quaNet 48 1 1).put (R.quaPeerLo 0) 5).setField R.quaNet 0 14 9000)
def quayPacket (type : Nat) (p : List Byte) : Dgram :=
  { dgram with dstMac := cq.fuses.mac, dstAddr := 0xFFFF * 2 ^ 32 + 1, dstPort := cq.regField R.quaNet 32 16, srcAddr := 5,
               bytes := toLE 1 type ++ toLE 1 0 ++ toLE 1 0 ++ toLE 1 1 ++ toLE 4 0 ++ toLE 4 0 ++ toLE 4 9 ++ toLE 2 p.length ++ toLE 6 0 ++ p }
def quayDgram (type n : Nat) : Dgram := quayPacket type (List.replicate n 0)

theorem c0_no_gate_waits : ∀ b, (c0.basin b).openAt = none
  | 0 => rfl
  | 1 => rfl
  | 2 => rfl
  | 3 => rfl
  | _ + 4 => rfl
theorem wit_TickOfRestingPackageCounts :
    c0.Shape ∧
    c0.AtRest ∧
    (c0.tideRuns = true ∧ c0.clk.level = none ∧ c0.clk.op = none ∧ c0.clk.stopped = false) ∧
    (∀ k ∈ c0.cores, k.ahead = 0) :=
  by and_intros <;> decide +kernel
theorem wit_RefusedCommandsOnlyReply :
    (Instr.memWrite hp 0 []).command = some (hp, 0x0201, .either, false) ∧
    ((dev .drain).dev = .drain ∧ (0x0201 : Nat) ∈ [0x0201, 0x0203] ∧ (dev .faulted).dev = .faulted ∧ (0x0201 : Nat) ∉ [0x0002, 0x0101,
      0x0103, 0x0202, 0x0601, 0x0602]) ∧
    ((Instr.arm hb 1).command = some (hb, 0x0102, .package, false) ∧ hb.pkg = false ∧ c4.basinCount ≠ 1 ∧ c4.dev = .ready) ∧
    ((Instr.preempt hp).command = some (hp, 0x0306, .basin, false) ∧ hp.pkg = true) ∧
    ((Instr.nop { hp with basin := 1 }).command = some ({ hp with basin := 1 }, 1, .either, true) ∧ c0.basinCount ≤ 1 ∧ (1 : Nat) ∉ [0x0201, 0x0202, 0x0203,
      0x0204]) ∧
    ((Instr.stepCommit hb).command = some (hb, 0x0304, .basin, false) ∧ (dev .wipe).dev = .wipe ∧ (dev .off).dev = .off) :=
  by and_intros <;> decide +kernel
theorem wit_ScopesOfCommands :
    c0.dev = .ready ∧ hp.pkg = true ∧ (Instr.intStatus hb).command = some (hb, 0x0501, .basin, false) :=
  by decide +kernel
theorem wit_RepliesAreSentAndLogged :
    (hp.flow < cf.quay.flows.length ∧ (cf.flow 0).state = 1 ∧ (cf.flow 0).backlog = [] ∧ cf.quay.paused = false) ∧
    (cf.flow 0).unacked.length < min 256 (cf.flow 0).window ∧
    ((c0.flow hp.flow).state ≠ 1 ∧ Status.ok ≠ .pending) :=
  by and_intros <;> decide +kernel
theorem wit_LinkRowsComplete :
    (cl.portReceives 0 = true ∧ ((cl.ackPort 0 5).port 0).replay = [] ∧ (ch.port 0).replay ≠ [] ∧ ((ch.ackPort 0 0).port 0).replay ≠
      [] ∧ (∀ h ∈ (ch.port 0).replay, h.m.kind ≠ 3)) ∧
    (ch.tideRuns = true ∧ ch.portReceives 0 = true ∧ ch.portRole 0 ≠ 2 ∧ 16 ≤ (ch.port 0).retries) ∧
    ((ch.setField (R.lnkPort 0) 1 2 1).portReceives 0 = true ∧ (ch.setField (R.lnkPort 0) 1 2 1).portRole 0 = 1) ∧
    (let d := cl.took 0 1 (via 0 0).flit true; cl.inOrder 0 (via 0 0).flit = true ∧ cl.inOrder 0 (via 0 1).flit = false ∧ (portsOfDir (portPlace
      0).1).find? (fun y => (portPlace y).2 = (portPlace 1).2) = some 1 ∧ d.portRole 1 ≠ 2 ∧ d.portUp 1 = true) ∧
    (c0.jtagDrives = false ∧ c0.portRole 31 ≠ 2 ∧ c0.portUp 31 = false ∧ c0.portReceives 0 = false) ∧
    (let w := ct.took 0 (flitsOf far) far.arr false; ct.serviceRole ≠ 2 ∧ ct.forHere far = false ∧ ct.portReceives far.port = true ∧
      ct.inOrder 0 far.arr = true ∧ ct.inOrder 0 { far.arr with pseq := 9 } = false ∧ (w.routeOf far).isSome = true ∧ cargoCrcOk far =
      true ∧ Chip.flooded 1 = false) ∧
    (let m := { far with kind := 3, cargo := 1 :: List.replicate 63 0 }; let w := ct.took 0 (flitsOf m) m.arr false; cargoCrcOk m =
      false ∧ ((w.cargoFail (w.basinOfHarbour 20) 0 0 (CargoHdr.parse m.cargo)).routeOf m).isSome = true) ∧
    (let c := (run (.linkBringUp 30 77) c0).put (R.lnkTopo 20) (BitVec.ofNat 64 (1 + 15 * 4 + 2 ^ 26)); let m :=
      { far with port := 30, kind := 8 }; c.serviceRole = 1 ∧ c.portReceives m.port = true ∧ c.inOrder 30 m.arr = true ∧ Chip.flooded
      m.kind = true) ∧
    c0.Shape ∧
    (fbit (cl.reg (R.lnkFailRec 20)) 0 = false ∧ cl.working (portPlace 0).1 = [0, 1] ∧ (run (.linkBringUp 0 77) c0).working (portPlace
      0).1 = [0]) ∧
    (cl.setField (R.lnkDir 20 0) 5 1 1).dirRotating (portPlace 0).1 = true :=
  by and_intros <;> decide +kernel
theorem wit_RotationAndSlots :
    (cs.tideRuns = true ∧ cs.slotMode = true ∧ c0.slotMode = false ∧ cs.portReceives 0 = true ∧ cs.inOrder 0 (via 0 0).flit = true ∧
      cs.inOrder 0 (via 0 1).flit = false ∧ (List.replicate 128 (7 : Byte)).length % 128 = 0) ∧
    (let mem (d : Chip) (l n : Nat) := (portsOfDir l).filter fun p => d.portUp p && d.portRole p == 0 && d.slotKind l n p != 0
      let copy := (run (.push hp 20 (2 ^ 40 + 128)) cs).put (R.lnkSlot 20 0 63) 3
      let test := cs.put (R.lnkSlot 20 0 0) 5
      let h : Held := { pseq := 1, flits := 2, vc := 5, job := 20, m := { msg with kind := 10 } }
      mem cs 6 63 = [] ∧ mem test 0 0 = [1] ∧ [1].all (fun p => test.slotKind 0 0 p == 2 && copy.slotKind 0 63 p == 1) = true ∧
      (copy.copyQueue 20).map CopyJob.link = [0] ∧ copy.fab.down = false ∧ (test.port 1).replay = [] ∧ (test.port 1).waiting = [] ∧
      (((test.setPort 1 fun x => { x with replay := [h] }).port 1).replay.filter fun h => h.m.kind =
        Chip.slotMsgKind (test.slotKind 0 0 1)) = [h] ∧ test.replayRoom 1 48 = true) ∧
    (let c := c0.put (R.lnkAcceptLimit 20) 0xFFF; c.regField (R.lnkAcceptBase 20) 0 48 ≤ 0xF80 ∧ 0xF80 + 127 ≤ c.regField
      (R.lnkAcceptLimit 20) 0 48 ∧ c.regField (R.lnkAcceptLimit 20) 0 48 < 0x1000 + 127 ∧ c.ownerOf 0xF80 = some 0 ∧ c.mooredAt 0
      (c.toBasin 0 0xF80) = none ∧ c.gateOpen 0 = false ∧ isScratch 0xF80 = false) ∧
    (let c := c0.put (R.lnkAcceptLimit 20) 0xFFFFFFFFFFF; c.ownerOf (Chip.scratchBase 0) = some 0 ∧ isScratch (Chip.scratchBase 0) = true ∧
      Chip.scratchBase 0 % 128 = 0 ∧ c.mooredAt 0 (c.toBasin 0 (Chip.scratchBase 0)) = none) ∧
    (let c := ((c0.put (R.lnkAcceptLimit 20) 0xFFFFFFFFFFF).put (R.seqMoorBase 0 0) (BitVec.ofNat 64 (2 ^ 63))).put (R.seqMoorLen 0 0)
      1; (c.mooredAt 0 (c.toBasin 0 0xF80)).isSome = true ∧ c.ownerOf 0x30000000000 = none ∧ cg.gateOpen 0 = true) :=
  by and_intros <;> decide +kernel
theorem wit_InboundMessagesComplete :
    ([1, 2, 3, 4, 5, 6, 7, 8].all (fun k => c0.takes k { msg with port := 0x3F, kind := k } && cl.takes k { msg with kind := k }) = true ∧
      c0.takes 1 { msg with kind := 1 } = false ∧ cl.inOrder 0 msg.arr = true ∧ cl.inOrder 0 { msg.arr with bad := some 0 } = false) ∧
    (let c := c0.put (R.redGroup (c0.redAt 0) 0 0) 3; (c.members 0 0 = [0, 1]) ∧ (c.members 0 (c.regField (R.redBar (c.redAt 0) 1) 0
      4)).all (fun m => m == 0) = false ∧ ((c.rootArrive 0 1 1 5).members 0 0).all (fun m => m == 0 || ((c.rootArrive 0 1 1 5).basin
      0).arrivals.any fun a => a.rank = m) = true) ∧
    (msg.dbasin < c0.basinCount ∧ c0.regField (R.redBar (c0.redAt 0) 1) 4 1 = 0) ∧
    (let c := pod (held (.barrier 1 9)); c.Shape ∧ (∀ i ∈ c.coresOf 0, i ∈ c.atBarrier 0 1) ∧ bits 1 0 6 = 1 ∧ c.regField (R.redBar (c.redAt
      0) 1) 4 1 = 1 ∧ c.members 0 0 = [0, 1] ∧ c.ownRank 0 = 1 ∧ c.fromRank 0 0 msg = true ∧ bits 1 6 8 = c.regField (R.redBar (c.redAt
      0) 1) 56 8 ∧ bits (1 + 2 ^ 6) 6 8 ≠ c.regField (R.redBar (c.redAt 0) 1) 56 8 ∧ ({ c with tide := 5 } : Chip).fullTick (bits 1 14
      48) < 5) ∧
    (let c := (pod ce).setBasin 0 fun x => { x with remotes := [(0, 0)] }; bits msg.body 16 4 = c.ebbGroup 0 ∧ c.fromRank 0 0 msg = true ∧
      (c.basin 0).remotes = [(bits msg.body 0 8, bits msg.body 8 8)] ∧ (c.core 3).ebb = some ebb ∧ (1, 0) ∉ (c.basin 0).remotes) :=
  by and_intros <;> decide +kernel
theorem wit_InboundCollectives :
    (cRed.Shape ∧ msg.dbasin < cRed.basinCount ∧ cRed.cargoBroken msg = false ∧ msg.port < 0x3F ∧ cRed.coll 0 0 = some aRed) ∧
    (Chip.cargoCheck (cargoMsg 0) (CargoHdr.parse (cargoMsg 0).cargo) = none ∧ (CargoHdr.parse (cargoMsg 0).cargo).epoch = cRed.epochOf 0 ∧
      cRed.findColl 0 (Chip.hdrMatches (cargoHdr 0)) = some 0 ∧ CargoHdr.parse (cargoMsg 0).cargo = cargoHdr 0 ∧
      (0, 1) ∈ aRed.granted ∧ 0 ∉ aRed.folded ∧ aRed.contribs = [] ∧ (0, 1) ∉ aColl.granted) ∧
    (Chip.cargoCheck (cargoMsg 5) (CargoHdr.parse (cargoMsg 5).cargo) = none ∧ (CargoHdr.parse (cargoMsg 5).cargo).epoch ≠ cRed.epochOf 0) ∧
    (c0.findColl 0 (Chip.hdrMatches (cargoHdr 0)) = none ∧ c0.findColl 0 (fun k => k.reduces && k.group == 0 && k.seq == 0) = none ∧
      cRed.findColl 0 (fun k => k.reduces && k.group == bits msg.body 56 4 && k.seq == bits msg.body 32 16) = some 0 ∧
      (cRed.collMembers 0 aRed).find? (fun r => cRed.rankPlace 0 r == some (msg.sx, msg.sy, msg.sz, msg.sbasin)) = some 0 ∧
      (0, 0) ∉ aRed.sent ∧ (0, 0) ∈ { aRed with sent := [(0, 0)] }.sent) ∧
    (aRed.loose = false ∧ ([aContrib 0, aContrib 1].map Contrib.member).Nodup ∧ [aContrib 0, aContrib 1].map Contrib.member = [0, 1] ∧
      (Chip.reduceEls aRed [0, 1] [aContrib 0, aContrib 1] 1)[0]?.isSome = true) ∧
    (Chip.cargoKey aRed 0 0 ∉ aRed.delivered ∧ Chip.cargoKey aRed 0 0 ∈ { aRed with delivered := [Chip.cargoKey aRed 0 0] }.delivered) :=
  by and_intros <;> decide +kernel
theorem wit_JtagAndI2cComplete :
    (c0.dev ≠ .off ∧ (dev .off).dev = .off ∧ c0.fusesServed = true ∧ (boot .fuse).fusesServed = false) ∧
    (¬ (c0.fusesServed = true ∧ (c0.life = 1 ∨ c0.life = 4))) ∧
    (let c := { c0 with fuses := { c0.fuses with entries := 1 } }; c.fusesServed = true ∧ c.life = 4 ∧ (c.regRead R.seqDrain).isSome =
      true ∧ (c.regWrite R.tidSyncValue 5 matches .ok _) ∧ (c.ownerOf 0).isSome = true) ∧
    (c0.pilot.i2cOff < 256 ∧ c0.pilot.i2cCap = [] ∧ (c0.i2cFields.any fun f => f.1 = c0.pilot.i2cOff) = true) :=
  by and_intros <;> decide +kernel
theorem wit_PacketsRunTheirRows :
    hp.flow < 16 ∧ hp.seq < 2 ^ 32 ∧ hp.basin < 256 ∧ (List.replicate 448 (7 : Byte)).length = 448 ∧ (0x0703 : Nat) ∉ [0x0701, 0x0702] :=
  by decide +kernel
theorem wit_StepsKeepMemoryCanonical :
    (s0.chip.Shape ∧ c0.mem.wf = true ∧ (run (.memWrite hp 0 [1, 2, 3, 4, 5, 6, 7, 8]) c0).mem.wf = true ∧ (run (.memWrite hp 0 [1, 2, 3, 4, 5, 6, 7,
      8]) c0).mem.cells ≠ []) ∧
    (match step { s0 with pending := [.memWrite hp 0 [1, 2, 3, 4, 5, 6, 7, 8]] } with | .next t => !t.chip.mem.cells.isEmpty | _ => false) = true :=
  by and_intros <;> decide +kernel
theorem wit_NumbersRoundOnce :
    (a40Finite 0x3FF0000000 = true ∧ (0x3FF0000000 : A40) ≠ 0x8000000000 ∧ decLog .l8 0x41 127 = .fin false 1 8 0 ∧ decLog .l16 0xC001
      127 = .fin true 1 256 0) ∧
    (let m : Matvec := { d := 2 ^ 64, wf := .l8, xf := .l8, bad := false, slots := [0] }; let r : Resident := { slot := 0, x := [], bad := false, lost := none };
      0 < m.slice ∧ (((groupOut m (MvuFlips.of []) [] [r]).outs[0]?).bind fun l => l[127]?).isSome = true) ∧
    ((0xBF800000 : F32).toNat % 2 ^ 31 < 0x7F7F8000 ∧ (0x7F7F7FFF : F32).toNat % 2 ^ 31 < 0x7F7F8000 ∧ ¬ (0x7F7F8000 : F32).toNat % 2 ^
      31 < 0x7F7F8000) :=
  by and_intros <;> decide +kernel
theorem wit_DrawsDependOnPositionAlone :
    (let c := ((c0.put (R.rngProbeStep 0) 5).put (R.rngProbeLo 0) 7).put (R.rngProbeHi 0) (BitVec.ofNat 64 (3 + 63 * 2 ^ 9 + 2 * 2 ^ 15
      + 2 ^ 23 + 200 * 2 ^ 32)); (c.reg (R.rngProbeStep 0)).toNat = 5 ∧ (c.reg (R.rngProbeLo 0)).toNat = 7 ∧ (c.reg (R.rngProbeHi
      0)).toNat = 3 + 63 * 2 ^ 9 + 2 * 2 ^ 15 + 1 * 2 ^ 23 + 200 * 2 ^ 32) ∧
    (c0.dev = .ready ∧ cu.undecided (cu.basinOfSett 3) = true ∧ c0.undecided (c0.basinOfSett 19) = false) ∧
    (c0.Admits hb 0x0303 .basin false ∧ c0.regField R.seqDrain 0 1 = 0 ∧ 0 ∈ c0.settsOf hb.basin ∧ 1 ∈ c0.settsOf hb.basin ∧ (c0.put
      (R.rngSeedLo 1) 1).seedOf 0 ≠ (c0.put (R.rngSeedLo 1) 1).seedOf 1 ∧ (c0.put (R.rngSeedLo 1) 1).Admits hb 0x0303 .basin false) :=
  by and_intros <;> decide +kernel
theorem wit_QueriesAreAnswered :
    (c0.Admits hp 1 .either true ∧ c0.Fits hp 0 ∧ c0.Fits hp c0.beatBody.length) ∧
    (c0.Admits hb 0x0501 .basin false ∧ c0.Admits hb 0x0503 .basin false) ∧
    c4.Fits hb (c4.intBody 0).length ∧
    (c0.setField R.quaNet 0 14 9000).Fits hb (c0.adjBody 0).length ∧
    (c0.Admits hp 0x0602 .package true ∧ (c0.setField R.quaNet 0 14 9000).Fits hp 2672) ∧
    (let c := c0.setField R.quaNet 0 14 100; c.replyFits hp.flow 64 = false ∧ c.replyFits hb.flow (c.intBody 0).length = false ∧
      c.replyFits hb.flow (c.adjBody 0).length = false ∧ c.replyFits hp.flow c.identityRecord.length = false ∧ c.replyFits hp.flow
      ((c.takeReadings readings).thermalBody readings).length = false ∧ c.replyFits hp.flow (8 * 64) = false ∧
      (c0.setField R.quaNet 0 14 60).replyFits hp.flow 8 = false) ∧
    (c0.Admits hp 0x0702 .package false ∧ c0.Fits hp ((c0.takeReadings readings).thermalBody readings).length) ∧
    (c0.Admits hp 0x0101 .package (Chip.wipeBlock R.seqDrain) ∧ (c0.regRead R.seqDrain).isSome = true ∧ c0.Fits hp 8 ∧ regAt (ra 0 0x0F
      0) = none) ∧
    (c0.Admits hp 0x0103 .package (Chip.wipeBlock (R.seqCmdLog 0)) ∧ raIndex (R.seqCmdLog 0) + 64 ≤ 2 ^ 17 ∧ (∀ i, i < 64 → (regAt
      (R.seqCmdLog 0 + 8 * i)).isSome) ∧ c0.Fits hp (8 * 64) ∧ 2 ^ 17 < raIndex (0xFFFF8) + 1024) :=
  by and_intros <;> decide +kernel
theorem wit_RegisterAccessByType :
    ((regAt R.seqDrain).isSome = true ∧ (regAt (R.lnkFailRec 20)).isSome = true) ∧
    (fbit (3 : Word) 0 = true ∧ fbit (c0.reg (R.lnkFailRec 20)) 0 = false ∧ (regAt (R.lnkFailRec 20)).any (fun r => (fieldsMask
      r.rol).getLsbD 0) = true ∧ c0.canon (R.lnkFailRec 20) = R.lnkFailRec 20 ∧ R.lnkFailRec 20 ∉ c0.cycleNow.caught ∧ c0.cycleNow.missed =
      [] ∧ R.lnkFailRec 20 ∈ (c0.latch (R.lnkFailRec 20) 3).cycleNow.caught) ∧
    (let c := c0.put (R.lnkFailRec 20) 3; fbit (c.reg (R.lnkFailRec 20)) 0 = true ∧ R.lnkFailRec 20 ∉ c.cycleNow.caught ∧ c.cycleNow.missed =
      [] ∧ (c.latch (R.lnkFailRec 20) 5).canon (R.lnkFailRec 20) = R.lnkFailRec 20) ∧
    ((regAt (R.lnkEvents 20)).any (fun r => !(fieldsMask r.rw).getLsbD 1) = true ∧ (c0.event (R.lnkEvents 20) 1).canon (R.lnkEvents 20) =
      R.lnkEvents 20) :=
  by and_intros <;> decide +kernel
theorem wit_RegisterWriteRows :
    (Instr.arm hp 1).regWriteOf = some (hp, R.tidSyncCtrl, 1) ∧ c0.Admits hp 0x0102 .package false ∧ (c0.regWrite R.tidSyncCtrl 1
      matches .ok _) ∧ (c0.regWrite R.pltBasinCut 3 matches .error _) ∧ c0.Fits hp 0 :=
  by decide +kernel
theorem wit_SpecialRegisterWrites :
    (fget (2 : Word) 0 2 ≠ c0.cut ∧ (∀ b, b < c0.basinCount → c0.freeBasin b = true) ∧ c0.freeBasin (c0.basinOfSett 19) = true ∧
      c0.anyRun = false ∧ cr.anyRun = true) ∧
    (c0.undecided 0 = false ∧ fget (0x3000 : Word) 0 12 = 0 ∧ c0.inBasinDram 0x3000 4096 = true ∧ (c0.moored 0) = [] ∧ (c0.core
      39).scan = none) ∧
    (c0.dev = .ready ∧ c0.running 0 = false ∧ c0.mayMoor 0 0x4000 0 true = true ∧ (c0.put (R.seqMoorLen 0 63) 2).mayMoor 0 0x4000 (2 *
      4096) true = true ∧ c0.mayMoor 0 0 4096 false = true) ∧
    (Chip.topoLegal (1 + 15 * 4) = true ∧ fget (1 : Word) 0 2 ≠ c0.regField R.quaPhy 0 2 ∧ 1518 ≤ fget (9216 : Word) 0 14 ∧ fget (9216 : Word) 0
      14 ≤ 9216 ∧ Chip.aperLegal 0x100000000000 0 (BitVec.ofNat 64 (1 + 2 ^ 44)) = true) :=
  by and_intros <;> decide +kernel
theorem wit_PushQueuesACopy :
    (c0.fab.copies.length = 16 ∧ fbit (2 ^ 40 + 128 : Word) 40 = true ∧ fget (2 ^ 40 + 128 : Word) 0 40 % 128 = 0 ∧ (c0.copyQueue
      35).length < 16 ∧ c0.regField (R.lnkCopySrc 35) 0 48 % 128 = 0 ∧ fget (2 ^ 40 + 1 : Word) 0 40 % 128 ≠ 0 ∧ fbit (128 : Word) 40 =
      false ∧ fget (2 ^ 40 : Word) 0 40 = 0 ∧ c0.copyQueue 35 = [] ∧ fget (2 ^ 40 + 128 : Word) 0 40 ≠ 0) ∧
    (∀ p ∈ c0.fab.ports, p.replay ++ p.waiting = []) ∧
    16 ≤
      (({ c0 with fab := { c0.fab with copies := List.replicate 16 (List.replicate 16 { src := 0, dst := 0, link := 0, len := 128 }) } }
      : Chip).copyQueue 35).length :=
  by and_intros <;> decide +kernel
theorem wit_PinnedWaysChange :
    fget (24 : Word) 0 5 ≤ 24 ∧ fget (24 : Word) 0 5 ≠ c0.pinnedWays 20 ∧ c0.freeBasin (c0.basinOfHarbour 20) = true ∧ cr.freeBasin
      (cr.basinOfHarbour 35) = false ∧ 24 < fget (25 : Word) 0 5 ∧ fget (c0.reg (R.hbcWays 20)) 0 5 = c0.pinnedWays 20 :=
  by decide +kernel
theorem wit_MemoryCommandsComplete :
    (c0.Admits hp 0x0201 .either false ∧ c0.memCheck hp 0x100 8192 false true = none ∧ c0.memCheck hp 0x100 8192 true false = none ∧
      c0.Fits hp 0 ∧ c0.memCheck hp 0 64 false false = none ∧ isWindow 0 = false ∧ c0.digesting 0 = false) ∧
    (let c : Chip := { c0 with quay := { c0.quay with digests := [aDigest] } }; c.digesting hb.basin = true ∧ c.quay.digests = [aDigest] ∧
      c.quay.hreads = []) ∧
    (c0.setField R.quaNet 0 14 9000).Fits hp (8 + 8192) ∧
    (isWindow 0x100000000000 = true ∧ c0.running 0 = false) ∧
    (let c := (c0.put (R.quaAperDev 0) 0x100000000000).put (R.quaAperLen 0) (BitVec.ofNat 64 (1 + 2 ^ 40 + 2 ^ 44)); (c.windowBytes 0
      0x100000000000 64).isSome = true) ∧
    (c0.oneRegion 0 8 = true ∧ (∀ b ∈ c0.ownersOf 0 8, b = hb.basin) ∧ (∃ b ∈ cr.ownersOf 0 8, cr.running b = true) ∧ cr.dev = .ready ∧
      cr.Admits hp 0x0201 .either false ∧ (∃ b ∈ c4.ownersOf (c4.settCount * Chip.stackSize) 8, b ≠ hb.basin)) ∧
    (let c := (cu.put (R.seqMoorBase 0 0) (BitVec.ofNat 64 (2 ^ 63))).put (R.seqMoorLen 0 0) 1; ∃ b ∈ c.ownersOf 0 8, c.undecided b =
      true ∧ c.touchesMoored b 0 8 = true) :=
  by and_intros <;> decide +kernel
theorem wit_WritesByUnit :
    (OneStore 0x100 8 ∧ OneStore 0x20000000000 8) ∧
    (let u := Chip.pinnedBase 20; let m := Mem.reset.setLineRaw u [(0, 1), (1, 1), (2, 1)]; (m.decode (fun _ => 2) u).delivers = false ∧
      (Mem.reset.decode (fun _ => 6) u).delivers = true) :=
  by and_intros <;> decide +kernel
theorem wit_ReadsByUnit :
    OneStore 0x100 8 ∧ unitOf 0x80 = 0x80 ∧ isScratch 0x80 = false ∧ unitOf 0x20000000008 = 0x20000000008 ∧ isScratch 0x20000000008 =
      true ∧ (let u := Chip.pinnedBase 20; (Mem.reset.setLineRaw u [(0, 1), (1, 1), (2, 1)]).lineErrors u = 3 ∧ unitOf u = u) :=
  by decide +kernel
theorem wit_BasinGeometry :
    3 < c4.basinCount ∧ 0 < c0.basinCount ∧ c0.basinCount = 1 :=
  by decide +kernel
theorem wit_RelocationKeepsBasinsApart :
    3 < c4.basinCount ∧ 4 * Chip.stackSize < c4.settCount * Chip.stackSize ∧ 9 < c4.coreCount ∧ 3 < c4.harbourCount ∧ (run
      (.hbcWaysWrite hp 35 24) c4).pinnedWays ((run (.hbcWaysWrite hp 35 24) c4).firstHarbour 3 + 3) = 24 :=
  by decide +kernel
theorem wit_ProgramCommandsComplete :
    (c0.Admits hp 0x0301 .package false ∧ c0.sourceOk 0 960 = true ∧ c0.slotBound 7 = false ∧ (c4.readImage image matches .ok _) ∧
      (c0.readImage (clean (List.replicate 64 0)) matches .error _)) ∧
    (let c := loaded; c.Admits hb 0x0302 .basin false ∧ c.running 0 = false ∧ c.bound 0 = false ∧ (c.prog 0).map Prog.len = some
      imageLen ∧ c.undecided 0 = false) ∧
    (((loaded.hold hb 0x0302).bindCheck 0 { src := 0, len := imageLen, scheds := imageScheds } image matches .ok _) ∧ ((c4.hold hb
      0x0302).bindCheck 0 { src := 0, len := imageLen, scheds := imageScheds } image matches .error _)) ∧
    (c0.progs.length = 8 ∧ c0.Shape ∧ 3 < c4.basinCount ∧ (imageScheds.map Sched.scope).all (fun x => decide (x < 4)) = true ∧
      ∀ i ∈ c4.coresOf 3, c4.meshBroken i = false) :=
  by and_intros <;> decide +kernel
theorem wit_StepCommands :
    (c0.Admits hb 0x0303 .basin false ∧ c0.regField R.seqDrain 0 1 = 0 ∧ c0.oneSeed 0 = true ∧ c0.running 0 = false ∧ c0.bound 0 =
      false ∧ (c0.setField (R.seqBind 0) 3 1 1).bound 0 = true ∧ c0.synced = false ∧ (run .tideSyncPulse (run (.arm hp 1) c0)).synced =
      true) ∧
    ((c0.setField R.seqDrain 0 1 1).regField R.seqDrain 0 1 = 1 ∧ (c0.setField R.seqDrain 0 1 1).Admits hb 0x0303 .basin false ∧
      c0.undecided 0 = false) ∧
    (cu.Admits hb 0x0304 .basin false ∧ cu.undecided 0 = true ∧ cu.regField (R.seqStepStatus 0) 11 1 = 0 ∧ cu.gateOpen 0 = false ∧
      cu.gatePending 0 = false ∧ cu.gateReached 0 = true ∧ cu.Fits hb 8 ∧ (cu.basin 0).discarding = false ∧ ((cu.setBasin 0 fun x => { x with discarding := true }).basin
      0).discarding = true ∧ cr.gateReached 0 = false ∧ cr.gateOpen 0 = false ∧
      cg.gateOpen 0 = true ∧ cu.Admits hb 0x0305 .basin false ∧ cg.Admits hb 0x0304 .basin false ∧ (cu.setField (R.seqStepStatus 0) 11
      1 1).regField (R.seqStepStatus 0) 11 1 = 1) :=
  by and_intros <;> decide +kernel
theorem wit_StepEventsComplete :
    (0 < c0.basinCount ∧ (cw.basin 0).running = true ∧ (cw.basin 0).live = false ∧ (cw.basin 0).preempting = false ∧ cw.clk.stopped =
      false ∧ (cr.basin 0).live = true) ∧
    (let c := (held .gate).setField (R.seqGate 0) 1 1 1; c.gatePending 0 = true ∧ c.allHeld 0 = true ∧ c.allOrdered 0 = true ∧ (c.basin
      0).live = true ∧ (c.basin 0).preempting = false ∧ c.regField (R.seqStepStatus 0) 11 1 = 0) ∧
    ((∀ i ∈ cn.coresOf 0, (cn.core i).phase = .ended ∧ (cn.core i).ebb = none) ∧ (cn.passLast 0).allLast 0 = true ∧ (cn.passLast
      0).allOrdered 0 = true) ∧
    ((cp.basin 0).preempting = true ∧ (cp.basin 0).live = true ∧ (cp.passLast 0).allStopped 0 = true ∧ (cw.setBasin 0 fun x =>
      { x with preempting := true }).allStopped 0 = true) :=
  by and_intros <;> decide +kernel
theorem wit_LaunchClearsTable147 :
    loaded.Shape ∧ (∀ i ∈ loaded.coresOf 0, loaded.meshBroken i = false) ∧ ((run (.progBind hb 0 0) loaded).boundStreams 0).length = (run (.progBind hb 0 0) loaded).coreCount :=
  by decide +kernel
theorem wit_GateOpensOnlyOnAllConditions :
    cr.Shape ∧ (c0.gateConds 0).all id = true ∧ ((cr.setAcc 0 fun a => { a with spike := true }).gateConds 0).all id = false ∧
      cr.running 0 = true ∧ c0.running 0 = false :=
  by decide +kernel
theorem wit_StepDecision :
    (let c := (c0.put (R.seqDvorBase 0) 0x3000).put (R.seqDvorRing 0) 2; c.Shape ∧ 0 < c.regField (R.seqDvorRing 0) 0 16 ∧ c.regField
      (R.seqDvorBase 0) 0 48 % 4096 = 0 ∧ c.inBasinDram (c.regField (R.seqDvorBase 0) 0 48) (2 * 4096) = true ∧ (c.relocate 0
      (c.regField (R.seqPackAddr 0) 0 48)).all (fun p => !dirty (c.peek p 1024)) = true) :=
  by decide +kernel
theorem wit_LeavingRunDecides :
    cr.Shape ∧ 0 < cr.basinCount ∧ cr.gatePending 0 = false ∧ cg.gateOpen 0 = true ∧ cr.gateOpen 0 = false ∧ (cr.basin 0).discarding =
      false ∧
      (let c := cr.setField (R.seqGate 0) 1 1 1; c.Shape ∧ c.gatePending 0 = true ∧ c.gateOpen 0 = false ∧ c.undecided 0 = true ∧
        ((c.setBasin 0 fun x => { x with discarding := true }).basin 0).discarding = true) :=
  by decide +kernel
theorem wit_PreemptStopsIssue :
    c0.Admits hb 0x0306 .basin false ∧ cr.Admits hb 0x0306 .basin false ∧ cr.running 0 = true ∧ c0.running 0 = false ∧ cr.Shape ∧
      (cr.basin 0).live = true ∧ cr.gateOpen 0 = false ∧ cg.gateOpen 0 = true ∧ (∀ i ∈ cr.coresOf 0, (cr.core i).ebb = none) ∧
      ∀ i ∈ cr.coresOf 0, cr.meshBroken i = false :=
  by decide +kernel
theorem wit_FabricCommandsComplete :
    (c0.anyRun = false ∧ c0.Admits hp 0x0401 .package false ∧ c0.Admits hp 0x0402 .package false ∧ c0.Admits hp 0x0403 .package false ∧
      c0.Admits hb 0x0404 .basin false ∧ Chip.topoLegal (1 + 15 * 4) = true ∧ c0.anyBound = false ∧ c0.Fits hp 0) ∧
    ((7 : Byte).toNat < 8 ∧ (List.replicate 448 (7 : Byte)).length = 448) ∧
    (c0.put (R.redGroup (c0.redAt 0) 15 0) 1).members 0 15 ≠ [] ∧
    c0.ranksOk 0 255 15 [255] = true ∧
    (c0.Shape ∧ 0 < c0.basinCount ∧ c4.ranksOk 3 5 2 [5 + 3 * 2 ^ 20] = true ∧ ∀ i ∈ c4.coresOf 3, c4.meshBroken i = false) :=
  by and_intros <;> decide +kernel
theorem wit_DrainCommandsComplete :
    (c0.Admits hp 0x0502 .package false ∧ (dev .drain).Admits hp 0x0502 .package false ∧ (dev .drain).Fits hp 0 ∧ c0.dev ≠ .drain) ∧
    (let c := c0.setField R.seqDrain 0 1 1; c.dev = .ready ∧ c.regField R.seqDrain 0 1 = 1 ∧ c.anyUndecided = false ∧ c.anyRun = false
      ∧ 36 ≤ (c.setField R.seqDrain 9 6 36).regField R.seqDrain 9 6) ∧
    (c0.Admits hb 0x0504 .basin false ∧ c0.digesting 0 = false ∧ c0.pagesAt 0 0x1000 0x2000 = some 0x1000 ∧ c0.replicaRange 0 1 0 0x1000 0x2000 = (0x1000,
      0x2000) ∧ (let c := (c0.put (R.seqMoorBase 0 63) (BitVec.ofNat 64 (2 ^ 63))).put (R.seqMoorLen 0 63) 1; c.pagesAt 0
      (c.replicaRange 0 0 63 0 0).1 (c.replicaRange 0 0 63 0 0).2 = some 0)) :=
  by and_intros <;> decide +kernel
theorem wit_FirstDrainTriggerIsKept :
    c0.tide < 2 ^ 43 ∧ c0.reg R.seqDrain = 0 ∧ (c0.startDrain 15 36 0 false).regField R.seqDrain 0 1 = 1 ∧ 0 ∈ cu.faultBasins 5 ∧
      cu.undecided 0 = true ∧ 5 ∈ cu.faultSetts 5 :=
  by decide +kernel
theorem wit_PilotCommandsComplete :
    (c0.Admits hp 0x0601 .package false ∧ c0.replyFits 0 4304 = true ∧ c0.trngOk = true ∧ (c0.setField R.secStatus 3 1 0).trngOk =
      false) ∧
    (c0.Admits hp 0x0603 .package false ∧ Chip.tokenOk token = true ∧ Chip.actionAllowed c0.fuses 4 0 0 = true ∧ c0.lifecycleReady =
      true ∧ c0.pilot.failRun < 8 ∧ ¬ (({ c0 with pilot := { c0.pilot with failRun := 8 } } : Chip).pilot.failRun < 8) ∧ c0.Fits hp 0 ∧
      lifeState (Chip.blow c0.fuses token) = 4 ∧ lifeState c0.fuses = 3) ∧
    (c0.Admits hp 0x0604 .package false ∧ c0.anyRun = false ∧ c0.anyUndecided = false ∧ cu.anyUndecided = true ∧ c0.quay.cmds = [] ∧
      (run (.drain hp 0 0) c0).quay.cmds ≠ [] ∧ (run (.drain hp 0 0) c0).Admits hp 0x0604 .package false ∧ c0.Admits hp 0x0701 .package
      false) :=
  by and_intros <;> decide +kernel
theorem wit_LifeCycleDecode :
    Fuses.reset.retired = false ∧ ({ Fuses.reset with entries := 1 } : Fuses).exits < 1 ∧ Fuses.reset.deployed = true :=
  by decide +kernel
theorem wit_LifeCycleMoves :
    Fuses.reset.slots.length = 4 ∧ Fuses.reset.exits ≤ Fuses.reset.entries ∧ Chip.tokenOk token = true ∧ Chip.actionAllowed Fuses.reset
      (leAt token 0 1) (leAt token 1 1) (leAt token 2 1) = true :=
  by decide +kernel
theorem wit_WipeEnds :
    (dev .wipe).dev = .wipe ∧ (dev .wipe).pilot.retiredWipe = false ∧ lifeState (dev .wipe).fuses ≠ 5 ∧ (dev .wipe).regField R.seqDrain
      3 1 = 0 ∧ lifeState { Fuses.reset with retired := true } = 5 ∧ ((dev .wipe).setField R.seqDrain 3 1 1).regField R.seqDrain 3 1 =
      1 ∧ onDie 0 0 = true ∧ onDie 0 Chip.stackSize = false ∧ (dev .wipe).pilot.image.config = [] ∧
      Sparse.wf regDefault (dev .wipe).regs = true :=
  by decide +kernel
theorem wit_ClockAndController :
    ((let x := Chip.nextLevel 64 1000 1001 false false; x.1 = 60) ∧ 100 * 949 < 95 * 1000 ∧ ¬ 100 * 950 < 95 * 1000 ∧ 0 = c0.op) ∧
    ((3 < 4) ∧ (9 < 10) ∧ (10 ≤ 10) ∧ (64 ≤ 64)) ∧
    (c0.Shape ∧ c0.AtRest ∧ c0.tideRuns = true ∧ c0.clk.stopped = false ∧ c0.clk.group < 64 ∧ c0.clk.framePos < 10 ∧ (∀ k ∈ c0.cores, k.ahead =
      0) ∧ 3 ≠ c0.op) :=
  by and_intros <;> decide +kernel
theorem wit_BundleIssuesInItsCycle :
    ((let c := cr.enterGate 3; c.mayIssue 3 = true ∧ (Chip.passEdges 1000 c (c.edgesFor 3 1 + 0)).mayIssue 3 = true ∧ ((Chip.passEdges
      1000 c (c.edgesFor 3 1)).core 3).waitLeft = 0) ∧ (c0.enterGate 3).mayIssue 3 = false) ∧
    (c0.audited (c0.basinOfCore 39) = false ∧ bits (2 ^ 128 : Bundle) 128 1 = 1 ∧ (c0.setCore 39 fun k =>
      { k with passStart := some 5, passV := 1 }).passBusy 39 317 = true ∧ (c0.setCore 39 fun k =>
      { k with passStart := some 5, passV := 1 }).passBusy 39 318 = false) ∧
    (((c0.setCore 39 fun k => { k with ldvTo := some 8 }).core 39).ldvTo = some 8 ∧ ((c0.setCore 39 fun k =>
      { k with mvuLastIntake := some 8 }).core 39).mvuLastIntake = some 8 ∧ 7 < ((c0.setCore 39 fun k => { k with vecNext := 8 }).core
      39).vecNext ∧ (c0.setEngine 39 3 fun g => { g with busyTo := some 8 }).engineBusy 39 3 8 = true ∧ (c0.setEngine 39 3 fun g =>
      { g with busyTo := some 8 }).engineBusy 39 3 9 = false ∧ ((c0.setCore 39 fun k => { k with chkBusyTo := some 8 }).core
      39).chkBusyTo = some 8) :=
  by and_intros <;> decide +kernel
theorem wit_StreamsTakeTheirEngine :
    ((Stream.ofDesc (2 ^ 122 - 2 ^ 110)).n1 = 4096 ∧ (Stream.ofDesc (2 ^ 122 - 2 ^ 110)).n2 = 1 ∧ (Stream.ofDesc (2 ^ 98 - 2 ^
      96)).bytes = 16 ∧ (Stream.ofDesc (2 ^ 96)).out = true ∧ (Stream.ofDesc 0).out = false) ∧
    (c0.Shape ∧ c0.engineBusy 39 3 5 = false ∧ (c0.descBytes 39 7 0xBFFFF 64).isSome = true ∧ (c0.descBytes 39 7 0xC0000 64).isSome =
      false) :=
  by and_intros <;> decide +kernel
theorem wit_ScansGiveCheckValues :
    (c0.Shape ∧ (c0.core 39).chkBusyTo = none ∧ c0.descBytes 39 7 5 32 = some (List.replicate 32 0) ∧ bits 0 48 32 = 0) ∧
    (let c := c0.poke (Chip.scratchBase 39) (clean (List.replicate 6 0 ++ [1] ++ List.replicate 25 0)); c.descBytes 39 7 0 32 = some
      (List.replicate 6 0 ++ [1] ++ List.replicate 25 0) ∧ bits (fromLE (List.replicate 6 0 ++ [1] ++ List.replicate 25 0)) 48 32 = 1) ∧
    (bits (2 ^ 84 + 2 ^ 48) 84 24 = 1 ∧ bits (fromLE (List.replicate 6 0 ++ [1] ++ List.replicate 25 0)) 84 24 = 0 ∧ (c0.core 39).cycle = 0 ∧
      bits (2 ^ 82 + 2 ^ 81) 82 1 = 1 ∧ bits (2 ^ 82 + 2 ^ 81) 80 2 = 2 ∧ c0.isNear 39 (c0.nearBase 39) = true ∧ c0.isNear 39 0 = false
      ∧ bits 0 108 1 = 0) ∧
    (let s : Scan :=
      { t0 := 1, a := c0.nearBase 39, n := 64, poly := 2, final := true, own := true, res := none, st := 7, bad := false, pos := 0, last := 4 };
      let c := c0.setCore 39 fun k => { k with cycle := 4, scan := some s }; c.Shape ∧ (c.core 39).scan = some s ∧ (c.core 39).cycle =
      s.last ∧ s.own = true ∧ s.res = none ∧ s.poly < 4 ∧ s.final = true ∧ { s with final := false }.final = false) :=
  by and_intros <;> decide +kernel
theorem wit_VectorWritesLandInOrder :
    (let v : VrWrite := { cycle := 4, stage := 1, reg := 31, lanes := List.replicate 512 { val := 7, mask := true, poison := false } };
      let c := c0.setCore 39 fun k => { k with cycle := 5, vrPend := [v, { v with cycle := 5 }] }; c.Shape ∧ (∀ w ∈ (c.core 39).vrPend,
      w.reg < 32 ∧ w.lanes.length ≤ 512) ∧ (((c.core 39).vrPend.filter fun w => w.cycle < 5 && w.reg = 31 && 511 <
      w.lanes.length).getLast?).isSome = true ∧ (((c.core 39).vrPend.filter fun w => w.cycle < 5 && w.reg = 30 && 511 <
      w.lanes.length).getLast?).isSome = false) :=
  by decide +kernel
theorem wit_VerdictsDecideBlocks :
    c0.defects = [] ∧
    (let p : Pass := { core := 39, t := 5, seq := 1, v := 64, split := 0, p := 1, wf := .l8, xf := .l8, bad := false, d := 0 }; let b :
      Berth := { array := 0, b := 0, d := c0.nearBase 39 * 2 ^ 112 + (c0.nearBase 39 + 0x8000) * 2 ^ 176 + 8 * 2 ^ 160 }; c0.Shape ∧
      b.yFmt.isSome = true ∧ (c0.core p.core).now.wins = [] ∧ c0.allNear 39 (b.al 112 48 + 63 * b.al 160 16) 512 = true ∧ c0.allNear 39
      (b.al 176 48 + 63 * (p.cols / 32)) (p.cols / 32) = true ∧ (List.range 16).any (fun x => ({ b with d := b.d + x * 2 ^ 288 } :
      Berth).yFmt.any fun f => f.isBlock) = true) ∧
    (let p : Pass := { core := 39, t := 5, seq := 1, v := 64, split := 0, p := 1, wf := .l8, xf := .l8, bad := false, d := 0 }; let b :
      Berth := { array := 0, b := 0, d := 0 }; let f : PassFl :=
      { p := p, bs := [b, { b with array := 1 }], tiles := [], held := [], outs := [], fates := [(0, [.wait, .commit]), (1, [.wait, .commit])], charges := [] };
      let a := { anAdj with verdict := 3, passStart := 5, passSeq := 1 }; let c := c0.setCore 39 fun k =>
      { k with passes := [f, { f with p := { p with t := 6 } }] }; c.Shape ∧ a.verdict < 8 ∧ a.array < 4 ∧ f ∈ (c.core 39).passes ∧
      f.p.t = a.passStart ∧ (0, [Fate.wait, Fate.commit]) ∈ f.fates ∧ a.block = 0 ∧ f.bs.findIdx (fun b => b.array = a.array && b.b =
      a.berth) = 0) ∧
    (Part.staging 0 2 ∈ [Part.staging 0 2] ∧ Part.commit 0 ∈ [Part.commit 0] ∧ (let c := c0.setCore 39 fun k => { k with adjRun := [(anAdj,
      240)] }; c.Shape ∧ (c.core 39).adjRun = [(anAdj, 240)] ∧ 240 + 7 < 248)) :=
  by and_intros <;> decide +kernel
theorem wit_ControlSlotAndLoops :
    (∀ o ∈ [({ start := 0, iterLeft := 2, lenM1 := 9 } : Loop)].head?, 3 + 4 < o.start + o.lenM1) ∧ cr.Shape ∧ bits (0x10000 : Bundle)
      16 4 = 1 ∧ bits (0x60000 : Bundle) 16 4 = 6 ∧ loopFits [] 4 5 = true ∧ loopFits (List.replicate 4
      { start := 0, iterLeft := 2, lenM1 := 9 }) 4 5 = false :=
  by decide +kernel
theorem wit_EbbHoldsItsScope :
    cr.Shape ∧ cr.ebbScope 3 1 = [3] ∧ (cr.core 3).ebb = none ∧ (cr.basin 0).scope = 0 ∧ ce.Shape ∧ (∀ j ∈ [3, 4], j < 40 ∧ (ce.core
      j).ebb ≠ none) ∧ 4 ∈ (cr.setBasin 0 fun x => { x with scope := 1 }).ebbScope 3 1 ∧
      [3, 4].find? (fun j => j / 2 = 2) = some 4 ∧ (ce.core 4).ebb = some ebb :=
  by decide +kernel
theorem wit_EbbEventsComplete :
    ((cr.core 3).phase = .run ∧ (cr.toBoundary 3 (cr.nextIssue 3)).isSome = true) ∧
    (let c := cr.setCore 3 fun k =>
      { k with engines := [{ Engine.reset with dir := 0, issue := 4, base := 10, step := 1, rows := 1, width := 9 }] };
      c.streamDeadline 3 0 0 0 = some 6 ∧ (c.toBoundary 3 6).isSome = true) ∧
    (let c := cr.setCore 3 fun k => { k with chkBusyTo := some 5 }; (c.toBoundary 3 6).isSome = true) ∧
    (let c := (cr.put (R.redGroup (cr.redAt 0) 0 0) 3).setBasin 0 fun x => { x with colls := [aColl] }; ((c.basin (c.basinOfCore
      3)).colls.find? fun q => q.core = 3 && !c.collMet (c.basinOfCore 3) q && c.reaches 3 (q.deadline + 1)) = some aColl ∧
      (c.toBoundary 3 (aColl.deadline + 1)).isSome = true) ∧
    ((ce.core 3).ebb = some ebb ∧ ebb.known = true ∧ ce.adjDue 3 ebb.start = false ∧ (cr.core 3).ebb = none ∧ (cr.core 3).adj = []) ∧
    ((let c := cr.setCore 3 fun k => { k with adj := [anAdj], cycle := 312 }; (c.core 3).adj = [anAdj] ∧ (c.toBoundary 3
      anAdj.bound).isSome = true) ∧ anAdj.bound ≤ anAdj.bound) :=
  by and_intros <;> decide +kernel
theorem wit_HoldsEnd :
    (((held (.barrier 0 2)).setBasin 0 fun x => { x with barRelease := some 40 }).Shape ∧ (((held (.barrier 0 2)).core 3).hold).map
      Hold.kind = some (.barrier 0 2) ∧ (((held (.tide 40)).core 3).hold).map Hold.kind = some (.tide 40) ∧ 0 < (c0.put
      R.tidBarrierTimeout 5).regField R.tidBarrierTimeout 0 32) ∧
    ((let c := (cr.put (R.redGroup (cr.redAt 0) 0 0) 3).setBasin 0 fun x => { x with colls := [aColl] }; c.coll 0 0 = some aColl ∧
      c.collMet 0 aColl = false ∧ c.coll 0 1 = none) ∧ (aHold (.barrier 0 2)).timedOut = false ∧ (aHold (.barrier 0 2)).barOver = false
      ∧ 2 < (aHold (.barrier 0 2)).edges) :=
  by and_intros <;> decide +kernel
theorem wit_WindowsRun :
    (c0.tideRuns = true ∧ c0.clk.stopped = false ∧ c0.isHot 0 = false ∧ (c0.setField (R.memStatus 0) 0 1 1).isHot 0 = true) ∧
    (let d := c0.pass (c0.ticksFor (c0.freeDue 0 - (c0.win 0).since)); d.runningCores 0 = [] ∧ d.edgesToLaunch 0 = none ∧ c0.freeDue 0
      ≤ (d.win 0).since) ∧
    (cr.laterCycle 0 = some 5 ∧ cr.tideRuns = true ∧ (let t := Chip.phaseCycle 3780 3785; t = 3780) ∧ (cr.win 0).phaseAt ≤ 3780) ∧
    (let c := [0, 1].foldl (fun c i => c.setCore i fun k => { k with cycle := 3780 }) cr; c.laterCycle 0 = some 3780 ∧ (c.passPhase 0
      (Chip.phaseCycle 3780 3780)).laterCycle 0 = some 3780) ∧
    (c0.Shape ∧ (∀ l ∈ (c0.win 19).repair, l < 128 * 6291456) ∧ (∀ e ∈ [Upset.line 7 5 1], e = .line 7 5 1) ∧ c0.fab.cache = []) :=
  by and_intros <;> decide +kernel
theorem wit_ReferencesAndSync :
    c0.tideRuns = true ∧ (dev .off).tideRuns = false ∧ c0.dev ≠ .wipe ∧ c0.regField R.tidRefStatus 3 1 = 0 ∧ (run (.arm hp 1) c0).regField R.tidRefStatus 3 1 = 1 ∧ (run
      .tideSyncPulse (run (.arm hp 1) c0)).regField R.tidRefStatus 1 1 = 1 :=
  by decide +kernel
theorem wit_PowerEventsComplete :
    (c0.tideRuns = true ∧ c0.dev ≠ .off ∧ (dev .off).dev = .off) ∧ (c0.bootHalted = false ∧ halted.bootHalted = true ∧ halted.dev ≠ .off) ∧ (run .fastLimit c0).clk.fastAt = some 0 ∧ c0.clk.fastAt = none ∧
    [(1, 3600), (1, 3799), (2, 161), (2, 199), (3, 0), (4, 115), (5, 100), (6, 6101), (6, 6200)].all (fun x => Chip.tripsAt x.1 x.2) = true ∧
    [(0, 0), (1, 3599), (1, 3800), (2, 162), (2, 198), (4, 114), (5, 99), (6, 6100), (6, 6201), (7, 0)].any (fun x => Chip.tripsAt x.1 x.2) = false :=
  by decide +kernel
/-- Lands of one kind over the whole grid (Table 13.1's counts). -/
def landCount (f : LandGroup → Bool) : Nat :=
  (List.range 160).foldl (fun n r =>
    n + ((List.range 160).filter fun k => landPopulated (20 + r) (20 + k) && f (landGroup (20 + r) (20 + k))).length) 0
theorem test_land_counts :
    landCount (· == .vin) = 3072 ∧ landCount (· == .gnd) = 20800 ∧
      landCount (fun g => match g with | .tidelink _ _ _ => true | _ => false) = 512 ∧
      landCount (fun g => match g with | .quay _ _ => true | _ => false) = 32 ∧ controlSignals.length = 36 := by
  decide +kernel
theorem test_lane_lands :
    ([0, 3, 4, 30, 31].all fun p => (List.range 4).all fun l => (List.range 4).all fun s =>
      landGroup (tidelinkLand p l s).1 (tidelinkLand p l s).2 == .tidelink p l s) = true ∧
    ((List.range 8).all fun l => (List.range 4).all fun s => landGroup (quayLand l s).1 (quayLand l s).2 == .quay l s) = true ∧
    sideIndex 30 = 14 := by decide +kernel
theorem test_fast_limit_ends :
    (let c := run .fastLimitEnd { run .fastLimit c0 with tide := 100000 };
      c.clk.fastAt = none ∧ c.regField R.pwrStatus 52 1 = 0 ∧ c.tide = 100000) ∧ (run .fastLimit c0).regField R.pwrStatus 52 1 = 1 := by
  decide +kernel
theorem wit_FaultedStopsEverything :
    cr.Shape ∧ fbit (c0.reg R.pwrTripRec) 0 = false ∧ c0.bootHalted = false ∧ halted.bootHalted = true :=
  by decide +kernel
theorem wit_PowerSequence :
    (let c := run .boardEnLow c0; c.dev = .off ∧ c.pins.boardEn = false ∧ (run .boardEnHigh c).dev = .off ∧ (run .boardEnHigh
      c).pins.boardEn = true ∧ (run .boardEnHigh c).pins.converters = true) ∧ c0.dev ≠ .off :=
  by decide +kernel
theorem wit_BootRunsInStages :
    [Stage.fuse, .flash, .verify, .config, .wipe, .ready].all (fun st => (boot st).inStage st && decide ((boot st).pilot.sinceGood ≤
      stageDeadline st * 1000000)) = true ∧
    ([Stage.fuse, .flash, .verify, .config, .wipe, .ready].all (fun st => c0.inStage st) = false ∧
      ({ boot .fuse with pilot := { (boot .fuse).pilot with sinceGood := 10 ^ 12 } } : Chip).inStage .fuse = true ∧ stageDeadline .fuse
      * 1000000 < 10 ^ 12) ∧
    ((boot .wipe).pilot.image.config = [] ∧ Sparse.wf regDefault (boot .wipe).regs = true ∧ Sparse.wf regDefault (boot .ready).regs = true) ∧
    ((boot .fuse).dev = .boot ∧ (boot .fuse).pilot.halted = false ∧ (boot .fuse).pilot.stage ≠ .none ∧ c0.dev ≠ .boot) ∧
    (fuseFailure (loadFuses c0.fuses Fuses.reset) true = none ∧ (fuseFailure (loadFuses c0.fuses Fuses.reset) false).isSome = true ∧
      lifeState (loadFuses c0.fuses { Fuses.reset with retired := true }) = 5) :=
  by and_intros <;> decide +kernel
theorem wit_ReportsLeave :
    (c0.reporting = true ∧ halted.reporting = true ∧ 0 <
      (c0.setField R.pltMgmt 32 32 7).regField R.pltMgmt 32 32 * 1000000 ∧ c0.pilot.keyAt = none ∧
      Chip.reportCode 0xE = true ∧ c0.rateOf 14 0 = none ∧ c0.tideRuns = true) ∧
    (let x : RateRec := { code := 14, die := 0, tick := 0, suppressed := 2 }; let r : RecCopy := ⟨14, 0, 1, 2, 3⟩; let c : Chip :=
      { c0 with pilot := { c0.pilot with rates := [x], copies := [r] } }; r ∈ c.pilot.copies ∧ r ∉ c0.pilot.copies ∧ c.rateOf 14 0 = some x ∧ c.tide < x.tick + 10000000 ∧ ¬
      ({ c with tide := 10000000 } : Chip).tide < x.tick + 10000000) ∧
    (fbit (c0.reg (R.intFaultRec 3)) 0 = false ∧ fbit ((c0.put (R.intFaultRec 3) 1).reg (R.intFaultRec 3)) 0 = true ∧ c0.dev = .ready) ∧
    (c0.regField R.seqDrain 3 1 = 0 ∧ (c0.setField R.seqDrain 3 1 1).regField R.seqDrain 3 1 = 1 ∧ c0.pilot.replBlown = false ∧
      c0.trngOk = true ∧ (c0.setField R.secStatus 3 1 0).trngOk = false ∧ ((c0.setField R.pltMgmt 0 1 1).setField R.pltMgmt 2 1
      1).mgmtUp = true ∧ c0.mgmtUp = false) :=
  by and_intros <;> decide +kernel
theorem wit_PacketsArrive :
    (let b := toLE 32 0; let d : Dgram := quayPacket 1 (b ++ toLE 4 (crc32c b)); let bad : Dgram := quayPacket 1 (toLE 36 0); (Chip.quayHdr d 1).any (fun q => q.type = 1
      && q.flow < cf.quay.flows.length) = true ∧ cmdCrcOk (qPayload d) = true ∧ (cf.flow 0).toBegin = [] ∧ cf.regField R.quaNet 30 1 = 0 ∧
      cmdCrcOk (qPayload bad) = false) ∧
    ((c0.admitDgram dgram).2 = none ∧ (cq.admitDgram (quayDgram 1 0)).2 = some 0 ∧ (cq.admitDgram (quayDgram 1 0)).1.flow 0 = cq.flow 0
      ∧ (cq.flow 0).state ≠ 0 ∧ (Chip.quayHdr (quayDgram 1 0) 1).map QHdr.session = some (cq.flow 0).session) ∧
    ((Chip.quayHdr (quayDgram 7 0) 7).isSome = true ∧ (Chip.quayHdr (quayDgram 3 32) 3).map QHdr.length = some 32 ∧ (Chip.quayHdr
      (quayDgram 4 0) 4).map QHdr.session = some 9 ∧ (Chip.quayHdr (quayDgram 4 0) 4).map QHdr.length = some 0 ∧ (c0.flow 0).session ≠
      9) ∧
    ((Chip.quayHdr (quayDgram 7 0) 7).any (fun q => q.flow < cq.quay.flows.length && q.psn < 2 ^ 32) = true ∧ (cf.flow 0).backlog = []
      ∧ 1 ≤ psnAhead 5 4 ∧ psnAhead 5 4 ≤ 2 ^ 31 ∧ 0 < cf.quay.flows.length) ∧
    (let c := cf.setField R.quaNet 30 1 1; let full := c.setFlow 0 fun f => { f with rxBuf := List.replicate 90 (3, { dgram with frameLen := 9000 }) };
      c.regField R.quaNet 30 1 = 1 ∧ c.quay.pausing = false ∧ 786432 < full.rxFill ∧ c.rxFill < 524288 ∧
      ({ c with quay := { c.quay with pausing := true } } : Chip).quay.pausing = true ∧ c0.regField R.quaNet 30 1 = 0) :=
  by and_intros <;> decide +kernel
theorem wit_QuayTimersAndPorts :
    (let c := cf.setFlow 0 fun f =>
      { f with ackDue := true, unacked := [{ psn := 5, type := 2, payload := [], tick := 0, retx := false }] }; (c.flow 0).state = 1 ∧
      (c.flow 0).ackDue = true ∧ ((c.flow 0).unacked.find? fun p => p.psn = 5).isSome = true) ∧
    (({ cf with quay := { cf.quay with hreads := [{ flow := 0, tag := 3, len := 128, host := 0, near := [], engine := 0, cache := false, win := 0, start := 0, first := 0, basin := 0, core := 0, tick := 0 }] } }
      : Chip).findRead 0 3).isSome = true ∧
    (cf.dev ≠ .off ∧ cf.dev ≠ .boot ∧ (cf.flow 0).state = 1 ∧ cf.quay.silent = false ∧ (c0.flow 0).state = 0) ∧
    ((let c := (run (.quayLinkUp 255) c0).put R.quaIp4 0x0A000001; c.portLive = true ∧ c.ownAddress false false = 0x0A000001 ∧
      c.ownAddress false false ≠ 7 ∧ (c.put R.quaIp6Lo 9).ownAddress false true = 9) ∧ (c0.reporting && ((c0.setField R.pltMgmt 0 1
      1).setField R.pltMgmt 2 1 1).mgmtUp) = true) ∧
    (let c := (run (.quayLinkUp 255) c0).setField R.quaNet 30 1 1; c.portLive = true ∧ c.regField R.quaNet 30 1 = 1 ∧ c.regField
      R.quaNet 27 3 ≠ 7) ∧
    (c0.tideRuns = true ∧ Chip.xqExists 35 2 = true ∧ Chip.xqExists 36 0 = true ∧ c0.jtagDrives = false ∧ c0.reporting = true ∧
      (c0.setField R.pltMgmt 0 1 1).regField R.pltMgmt 0 1 = 1) :=
  by and_intros <;> decide +kernel

end Sys2Proof.Tests
end

section
/-! SUPPORT. Laws of the cut into basins (R44, R45; Table 01.10): a basin's setts, cores and harbour dies are runs of consecutive units,
one run per basin, and a unit's number says which run it stands in. -/

namespace Sys2Proof.Machine

theorem getElem?_tabulate {α : Type} (f : Nat → α) {n i : Nat} (h : i < n) : (tabulate n f)[i]? = some (f i) := by
  simp [tabulate, h]

/-- Among runs of `k * n` numbers each, the one with the number `k * (i * n) + j` is the `i`th. -/
theorem runStart_add_div (k i : Nat) {n j : Nat} (h : j < k * n) : (k * (i * n) + j) / (k * n) = i := by
  rw [Nat.mul_left_comm, Nat.add_comm, Nat.add_mul_div_right j i (Nat.zero_lt_of_lt h), Nat.div_eq_of_lt h, Nat.zero_add]

namespace Chip

theorem rows_cases (c : Chip) : c.rows = 4 ∨ c.rows = 2 ∨ c.rows = 1 := by
  unfold rows rowsOf
  split
  · exact .inl rfl
  · split
    · exact .inr (.inl rfl)
    · exact .inr (.inr rfl)

theorem rows_pos (c : Chip) : 0 < c.rows := by
  obtain h | h | h := c.rows_cases <;> omega

/-- Every cut shares out all four rows of the package. -/
theorem rows_mul_basinCount (c : Chip) : c.rows * c.basinCount = 4 :=
  Nat.mul_div_cancel' (by obtain h | h | h := c.rows_cases <;> rw [h] <;> decide)

theorem settsOf_getElem? (c : Chip) (i : Nat) {j : Nat} (h : j < 5 * c.rows) :
    (c.settsOf i)[j]? = some (5 * c.firstRow i + j) := getElem?_tabulate _ h

theorem coresOf_getElem? (c : Chip) (i : Nat) {b : Nat} (h : b < 10 * c.rows) :
    (c.coresOf i)[b]? = some (10 * c.firstRow i + b) := getElem?_tabulate _ h

theorem harboursOf_getElem? (c : Chip) (i : Nat) {g : Nat} (h : g < 4 * c.rows) :
    (c.harboursOf i)[g]? = some (20 + 4 * c.firstRow i + g) := getElem?_tabulate _ h

theorem basinOfSett_settsOf (c : Chip) (i : Nat) {j : Nat} (h : j < 5 * c.rows) :
    c.basinOfSett (5 * c.firstRow i + j) = i := runStart_add_div 5 i h

theorem basinOfCore_coresOf (c : Chip) (i : Nat) {b : Nat} (h : b < 10 * c.rows) :
    c.basinOfCore (10 * c.firstRow i + b) = i := runStart_add_div 10 i h

theorem basinOfHarbour_harboursOf (c : Chip) (i : Nat) {g : Nat} (h : g < 4 * c.rows) :
    c.basinOfHarbour (20 + 4 * c.firstRow i + g) = i := by
  have hsub : 20 + 4 * c.firstRow i + g - 20 = 4 * c.firstRow i + g := by omega
  rw [basinOfHarbour, hsub]
  exact runStart_add_div 4 i h

/-- R47 takes a basin's DRAM to its own stacks. -/
theorem relocate_dram (c : Chip) (i : Nat) {a : Nat} (h : a < c.settCount * stackSize) :
    c.relocate i a = some (a + c.firstSett i * stackSize) := if_pos h

/-- The basin's first DRAM byte is the first of its first stack (R45). -/
theorem relocate_zero (c : Chip) (i : Nat) : c.relocate i 0 = some (5 * c.firstRow i * stackSize) := by
  have hpos : 0 < c.settCount * stackSize :=
    Nat.mul_pos (Nat.mul_pos (by decide) c.rows_pos) (by decide)
  rw [c.relocate_dram i hpos, Nat.zero_add, firstSett]

theorem firstCore_zero (c : Chip) : c.firstCore 0 = 0 := by
  simp [firstCore, firstRow]

end Chip
end Sys2Proof.Machine
end

section
open Sys2Proof.Machine

/-- Settles O29: R45's first units hold by definition; each basin's units are a run that starts at the first unit, so a unit's index in
its basin is its distance from there, and the division by the run's length finds the basin again. -/
theorem basinGeometry : Obligations.BasinGeometry := by
  unfold Obligations.BasinGeometry
  intro c i hi
  refine ⟨rfl, c.rows_mul_basinCount, rfl, rfl, rfl, c.relocate_zero i, ?setts, ?cores, ?harbours, ?oneBasin⟩
  case setts => exact fun j hj => ⟨c.settsOf_getElem? i hj, c.basinOfSett_settsOf i hj⟩
  case cores => exact fun b hb => ⟨c.coresOf_getElem? i hb, c.basinOfCore_coresOf i hb⟩
  case harbours => exact fun g hg => ⟨c.harboursOf_getElem? i hg, c.basinOfHarbour_harboursOf i hg⟩
  case oneBasin =>
    intro hone
    have hzero : i = 0 := by omega
    rw [hzero, c.firstCore_zero]
end

section
/-! SUPPORT. Register addresses (R41): each part of an address built from a die, a block and an index is found again. -/

namespace Sys2Proof.Machine

theorem bits_eq_div_mod (x lo w : Nat) : bits x lo w = x / 2 ^ lo % 2 ^ w := by
  rw [bits, Nat.shiftRight_eq_div_pow]

section
variable {die block index : Nat} (hdie : die < 64) (hblock : block < 64) (hindex : index < 2 ^ 17)

include hdie hblock hindex in
theorem raDie_ra : raDie (ra die block index) = die := by
  rw [raDie, bits_eq_div_mod, ra]; omega

include hblock hindex in
theorem raBlock_ra : raBlock (ra die block index) = block := by
  rw [raBlock, bits_eq_div_mod, ra]; omega

include hindex in
theorem raIndex_ra : raIndex (ra die block index) = index := by
  rw [raIndex, bits_eq_div_mod, ra]; omega

include hdie hblock hindex in
theorem regAt_ra : regAt (ra die block index) = regInfo die block index := by
  have haligned : ra die block index % 8 = 0 := by rw [ra]; omega
  have hbound : ra die block index < 2 ^ 32 := by rw [ra]; omega
  rw [regAt, raDie_ra hdie hblock hindex, raBlock_ra hblock hindex, raIndex_ra hindex]
  simp only [haligned, hbound, decide_true, Bool.and_self, if_true]

end

/-- Every harbour die carries the block HBC (R42, Table 01.8). -/
theorem regInfo_hbc {h : Nat} (hlo : 20 ≤ h) (hhi : h < 36) (i : Nat) : regInfo h 0x10 i = riHbc i := by
  have hpresent : blockPresent h 0x10 = true := by
    rw [blockPresent, if_neg (by omega), if_pos hhi]; rfl
  rw [regInfo, hpresent]; rfl

end Sys2Proof.Machine
end

section
/-! SUPPORT. What is read of sparse data and of the memory once a range of keys is gone. -/

namespace Sys2Proof.Machine

/-- A read once only the keys that satisfy `p` are left. -/
theorem Sparse.get_filter_key {α : Type} (d : Nat → α) (p : Nat → Bool) (m : Sparse α) (k : Nat) :
    get d (m.filter fun e => p e.1) k = if p k then get d m k else d k := by
  induction m with
  | nil => simp [get]
  | cons e t ih =>
    obtain ⟨j, v⟩ := e
    by_cases hjk : j = k
    · subst hjk
      cases hp : p j <;> simp_all [get]
    · cases hp : p j <;> simp [hp, get, hjk, ih]

namespace Mem

theorem byte_clearRange (m : Mem) (lo hi a : Nat) :
    (m.clearRange lo hi).byte a = if lo ≤ a ∧ a < hi then 0 else m.byte a := by
  rw [byte, clearRange, Sparse.get_filter_key byteDefault fun k => !(lo ≤ k && k < hi)]
  by_cases hin : lo ≤ a ∧ a < hi
  · simp [hin, byteDefault]
  · have hleft : (!(decide (lo ≤ a) && decide (a < hi))) = true := by rw [← Bool.decide_and, decide_eq_false hin]; rfl
    rw [if_neg hin, if_pos hleft, byte]

/-- No unit whose first address lies in the range is marked. -/
theorem poisoned_clearRange (m : Mem) {lo hi a : Nat} (hlo : lo ≤ unitOf a) (hhi : unitOf a < hi) :
    (m.clearRange lo hi).poisoned a = false := by
  rw [poisoned, clearRange, Sparse.get_filter_key falseDefault fun k => !(lo ≤ k && k < hi)]
  simp [hlo, hhi, falseDefault]

end Mem

/-- Above the scratch regions the store unit is a line (Table 06.4). -/
theorem unitOf_of_pinned {a : Nat} (h : 0x30000000000 ≤ a) : unitOf a = a / 128 * 128 := by
  have hscratch : isScratch a = false := by
    rw [isScratch, decide_eq_false (show ¬ a < 0x30000000000 by omega), Bool.and_false]
  rw [unitOf, unitSize, hscratch]; rfl

end Sys2Proof.Machine
end

section
/-! SUPPORT. A write of HBC_WAYS (R219): what it answers, and what an accepted change of pinned ways does to each part of the chip. -/

namespace Sys2Proof.Machine.Chip

theorem regWrite_hbcWays (c : Chip) {h : Nat} (hlo : 20 ≤ h) (hhi : h < 36) (v : Word) :
    c.regWrite (R.hbcWays h) v = c.waysWrite h v := by
  have hdie : h < 64 := by omega
  have hat : regAt (R.hbcWays h) = riHbc 0 :=
    (regAt_ra hdie (by decide) (by decide)).trans (regInfo_hbc hlo hhi 0)
  have hd : raDie (R.hbcWays h) = h := raDie_ra hdie (by decide) (by decide)
  have hb : raBlock (R.hbcWays h) = 0x10 := raBlock_ra (by decide) (by decide)
  have hi : raIndex (R.hbcWays h) = 0 := raIndex_ra (by decide)
  rw [regWrite, hat, hd, hb, hi]
  rfl

section
variable {c : Chip} {h : Nat} {v : Word}

theorem waysWrite_of_gt (hp : 24 < fget v 0 5) : c.waysWrite h v = .error .badParam := if_pos hp

theorem waysWrite_of_same (hp : fget v 0 5 ≤ 24) (hsame : fget v 0 5 = c.pinnedWays h) : c.waysWrite h v = .ok c := by
  rw [waysWrite, if_neg (Nat.not_lt.2 hp), if_pos hsame]

theorem waysWrite_of_change (hp : fget v 0 5 ≤ 24) (hne : fget v 0 5 ≠ c.pinnedWays h) :
    c.waysWrite h v =
      if c.freeBasin (c.basinOfHarbour h) then .ok (c.changeWays h (fget v 0 5)) else .error .notInState := by
  rw [waysWrite, if_neg (Nat.not_lt.2 hp), if_neg hne]

end

/-- An accepted change touches registers, memory and cache ways alone: the two fields of HBC_WAYS, the bytes and marks between the
beginnings of the ways at the old and the new count, and the die's cached lines. -/
theorem changeWays_eq (c : Chip) (h p : Nat) :
    c.changeWays h p = { c with
      regs := ((c.setField (R.hbcWays h) 0 5 p).setField (R.hbcWays h) 8 5 (24 - p)).regs
      mem := c.mem.clearRange (pinnedBase h + min p (c.pinnedWays h) * 0x800000)
        (pinnedBase h + max p (c.pinnedWays h) * 0x800000)
      fab := { c.fab with cache := c.fab.cache.filter fun l => !decide (l.die = h) } } := by
  unfold changeWays dropLines setField
  rw [Nat.min_comm, Nat.max_comm]

theorem pinnedWays_changeWays (c : Chip) (h : Nat) {p : Nat} (hp : p ≤ 24) : (c.changeWays h p).pinnedWays h = p := by
  have hfield : (c.changeWays h p).pinnedWays h =
      ((c.setField (R.hbcWays h) 0 5 p).setField (R.hbcWays h) 8 5 (24 - p)).regField (R.hbcWays h) 0 5 := by
    rw [changeWays_eq, pinnedWays, regField, regField]
  calc (c.changeWays h p).pinnedWays h
      = (c.setField (R.hbcWays h) 0 5 p).regField (R.hbcWays h) 0 5 :=
        hfield.trans (regField_setField_apart _ _ _ _ _ _ _ (by decide) (.inl (by decide)))
    _ = p % 2 ^ 5 := regField_setField _ _ _ _ _ (by decide)
    _ = p := Nat.mod_eq_of_lt (by omega)

theorem changeWays_mem (c : Chip) (h p : Nat) :
    (c.changeWays h p).mem = c.mem.clearRange (pinnedBase h + min p (c.pinnedWays h) * 0x800000)
      (pinnedBase h + max p (c.pinnedWays h) * 0x800000) := by
  rw [changeWays_eq]

theorem mem_changeWays_cache (c : Chip) (h p : Nat) (l : CacheLine) :
    l ∈ (c.changeWays h p).fab.cache ↔ l ∈ c.fab.cache ∧ l.die ≠ h := by
  rw [changeWays_eq]
  simp

theorem changeWays_frame (c : Chip) (h p : Nat) :
    { c.changeWays h p with
      regs := c.regs, mem := c.mem, fab := { (c.changeWays h p).fab with cache := c.fab.cache } } = c := by
  rw [changeWays_eq]

/-- A way begins and ends on a line, so that the line of a byte between two ways' beginnings lies between them too. -/
theorem unitOf_pinnedBase_add (h : Nat) {w w' o : Nat} (hlo : w * 0x800000 ≤ o) (hhi : o < w' * 0x800000) :
    pinnedBase h + w * 0x800000 ≤ unitOf (pinnedBase h + o) ∧
      unitOf (pinnedBase h + o) < pinnedBase h + w' * 0x800000 := by
  have hbase : pinnedBase h = 0x30000000000 + (h - 20) * 0x10000000 := rfl
  rw [unitOf_of_pinned (by omega)]
  omega

end Sys2Proof.Machine.Chip
end

section
open Sys2Proof.Machine

/-- Settles O25: HBC_WAYS is the register that `waysWrite` answers for, and an accepted change clears exactly the memory of the ways
between the two counts, which begin and end on lines. -/
theorem pinnedWaysChange : Obligations.PinnedWaysChange := by
  unfold Obligations.PinnedWaysChange
  intro c h v hlo hhi p old
  rw [c.regWrite_hbcWays hlo hhi v]
  refine ⟨Chip.waysWrite_of_gt, ?refused, Chip.waysWrite_of_same, ?accepted⟩
  case refused =>
    intro hp hne hfree
    rw [Chip.waysWrite_of_change hp hne, hfree]
    rfl
  case accepted =>
    intro hp hne hfree
    refine ⟨c.changeWays h p, ?answer, c.pinnedWays_changeWays h hp, ?zero, ?clean, ?kept, ?dropped, ?others,
      c.changeWays_frame h p⟩
    case answer => rw [Chip.waysWrite_of_change hp hne, if_pos hfree]
    case zero =>
      intro o hfrom hto
      rw [c.changeWays_mem, Mem.byte_clearRange, if_pos ⟨Nat.add_le_add_left hfrom _, Nat.add_lt_add_left hto _⟩]
    case clean =>
      intro o hfrom hto
      obtain ⟨hunit, hunit'⟩ := Chip.unitOf_pinnedBase_add h hfrom hto
      rw [c.changeWays_mem, Mem.poisoned_clearRange _ hunit hunit']
    case kept =>
      intro a hout
      rw [c.changeWays_mem, Mem.byte_clearRange, if_neg (by omega)]
    case dropped => exact fun l hl => ((c.mem_changeWays_cache h p l).1 hl).2
    case others => exact fun l hl hne => (c.mem_changeWays_cache h p l).2 ⟨hl, hne⟩
end

section
/-! SUPPORT. The life-cycle state (R434), one lemma per line of the decode order, each under the failure of the lines before it. -/

namespace Sys2Proof.Machine

section
variable {f : Fuses}

theorem lifeState_of_retired (hretired : f.retired = true) : lifeState f = 5 := if_pos hretired

variable (hretired : f.retired = false)

include hretired in
/-- What the later lines of R434 decode once the retired fuse is not blown. -/
theorem lifeState_of_not_retired :
    lifeState f = if f.exits < f.entries then 4 else if f.deployed then 3 else if f.provisioned then 2 else 1 :=
  if_neg (Bool.eq_false_iff.1 hretired)

include hretired in
theorem lifeState_of_exits_lt_entries (hdebug : f.exits < f.entries) : lifeState f = 4 := by
  rw [lifeState_of_not_retired hretired, if_pos hdebug]

variable (hdebug : ¬ f.exits < f.entries)

include hretired hdebug in
theorem lifeState_of_deployed (hdeployed : f.deployed = true) : lifeState f = 3 := by
  rw [lifeState_of_not_retired hretired, if_neg hdebug, if_pos hdeployed]

variable (hdeployed : f.deployed = false)

include hretired hdebug hdeployed in
/-- The last two lines of R434: only the provisioned fuse is left to ask. -/
theorem lifeState_of_not_deployed : lifeState f = if f.provisioned then 2 else 1 := by
  rw [lifeState_of_not_retired hretired, if_neg hdebug, if_neg (Bool.eq_false_iff.1 hdeployed)]

include hretired hdebug hdeployed in
theorem lifeState_of_provisioned (hprovisioned : f.provisioned = true) : lifeState f = 2 := by
  rw [lifeState_of_not_deployed hretired hdebug hdeployed, if_pos hprovisioned]

include hretired hdebug hdeployed in
theorem lifeState_of_not_provisioned (hprovisioned : f.provisioned = false) : lifeState f = 1 := by
  rw [lifeState_of_not_deployed hretired hdebug hdeployed, if_neg (Bool.eq_false_iff.1 hprovisioned)]

end

end Sys2Proof.Machine
end

section
open Sys2Proof.Machine

/-- Settles O43: RETIRED, DEBUG, DEPLOYED, PROVISIONED and BLANK, each decoded where no earlier line of R434 holds. -/
theorem lifeCycleDecode : Obligations.LifeCycleDecode := by
  unfold Obligations.LifeCycleDecode
  intro f
  exact ⟨lifeState_of_retired, lifeState_of_exits_lt_entries, lifeState_of_deployed, lifeState_of_provisioned,
    lifeState_of_not_provisioned⟩
end
